-- ==== Sys2Proof/Word.lean ====
section
/-! DEFINITION. The fixed widths of the block: bytes, 16-bit fields, 32-bit persisted values (R5, R7). -/

namespace Sys2Proof

/-- A byte of a frame (R8). -/
abbrev Byte := BitVec 8

/-- A 16-bit unsigned integer, the spec's u16 (R7). -/
abbrev U16 := BitVec 16

/-- A 32-bit unsigned integer, the spec's u32 (R7). -/
abbrev U32 := BitVec 32

end Sys2Proof
end

