-- ==== Sys2Proof/Config.lean ====
section
/-! DEFINITION. The construction parameters of R5, its fixed constants, and the values the spec leaves
free: two opaque constants without a body. -/

namespace Sys2Proof

/-- The transport variant of one instance (R5, D33). -/
inductive Transport where
  | rtu
  | tcp
deriving DecidableEq, Repr

/-- The legal values of the baud-rate code (R15): `c02` is 4800, `c03` is 9600, `c04` is 19200. -/
inductive BaudCode where
  | c02
  | c03
  | c04
deriving DecidableEq, Repr

/-- The construction parameters of R5. "They cannot change afterwards" (R182): no step writes them.
ARB, the remaining parameter, is the free value `Config.frameFirst`. -/
structure Config where
  transport   : Transport
  nCoils      : Nat
  nInputs     : Nat
  frameMax    : Nat
  baudDefault : BaudCode
  bcastReply  : Bool
deriving DecidableEq, Repr

/-- The values R5 and `92_eei_decisions.md` allow: 1 to 8 coils, 1 to 8 inputs, FRAME_MAX at least 17. -/
abbrev Config.wf (cfg : Config) : Prop :=
  (1 ≤ cfg.nCoils ∧ cfg.nCoils ≤ 8) ∧ (1 ≤ cfg.nInputs ∧ cfg.nInputs ≤ 8) ∧ 17 ≤ cfg.frameMax

/-- The default values of R5 for the RTU variant.
DESIGN CHOICE (unsafe, log 1): R5 asks for TRANSPORT to be given; the state after reset is given these. -/
def Config.rtuDefault : Config where
  transport   := .rtu
  nCoils      := 4
  nInputs     := 4
  frameMax    := 256
  baudDefault := .c03
  bcastReply  := true

/-- The default values of R5 for the TCP variant. -/
def Config.tcpDefault : Config where
  transport   := .tcp
  nCoils      := 2
  nInputs     := 2
  frameMax    := 260
  baudDefault := .c03
  bcastReply  := true

/-! The fixed constants of R5. -/

/-- CRC_INIT (R5, R70). -/
def crcInitValue : U16 := 0xFFFF#16
/-- CRC_POLY (R5, R71). -/
def crcPoly : U16 := 0xA001#16
/-- RTU_MIN_LEN (R5, R81). -/
def rtuMinLen : Nat := 8
/-- TCP_MIN_LEN (R5, R82). -/
def tcpMinLen : Nat := 12
/-- TCP_HDR_LEN (R5, R82). -/
def tcpHdrLen : Nat := 7
/-- BROADCAST (R5, R91). -/
def broadcast : Byte := 0x00#8
/-- ADDR_UNCONFIGURED (R5, R14). -/
def addrUnconfigured : Byte := 0xFF#8
/-- ADDR_MIN (R5, R14). -/
def addrMin : Nat := 1
/-- ADDR_MAX (R5, R14). -/
def addrMax : Nat := 247
/-- REG_ADDR (R5, R13). -/
def regAddr : U16 := 0x0000#16
/-- REG_BAUD (R5, R13). -/
def regBaud : U16 := 0x03E9#16
/-- REG_FLASH_BASE (R5, R13). -/
def regFlashBase : Nat := 0x0003
/-- REG_FLASH_STRIDE (R5, R13). -/
def regFlashStride : Nat := 5
/-- TB_UNIT in milliseconds (R5): the nominal spacing of the time base, on which no rule depends (R191). -/
def tbUnitMs : Nat := 100

/-! The free values. -/

/-- The answer of the environment to the `n`-th `ReadInput` query of a run, where the run fixes none
(R32, M1: "an oracle it does not constrain"). Log 5. -/
opaque Config.inputAnswer (n : Nat) : Bool

/-- Whether the frame is served before the strobe at the `n`-th time the two are presented at the same
moment (R43, D3: "either order is allowed and a model must admit both"). Log 6. -/
opaque Config.frameFirst (n : Nat) : Bool

end Sys2Proof
end

