-- ==== Sys2Proof/Syntax.lean ====
section
/-! DEFINITION. The instructions: one constructor for each row of `spec/opcode_table.json` (R56, R57, R63).
A request is named by its protocol data unit; the envelope that carries it is the transport's
(`Machine/Transport.lean`). Operands are those of R54 and R55. -/

namespace Sys2Proof

/-- The instruction set of the block. -/
inductive Instr where
  /-- Read Coils, function 0x01 (R100). -/
  | rdCoils (start quantity : U16)
  /-- Read Discrete Inputs, function 0x02 (R101). -/
  | rdInputs (start quantity : U16)
  /-- Read Holding Registers, function 0x03 (R102). -/
  | rdHold (start quantity : U16)
  /-- Write Single Coil, function 0x05 (R110). -/
  | wrCoil (address value : U16)
  /-- Write Multiple Coils, function 0x0F (R111). The byte count and the data byte may be absent (D10). -/
  | wrCoils (start quantity : U16) (byteCount d0 : Option Byte)
  /-- Function 0x10, set device address (R121): the data bytes d[0], d[1]. -/
  | setAddr (d0 d1 : Byte)
  /-- Function 0x10, set baud-rate code (R122): the data bytes d[0], d[1]. -/
  | setBaud (d0 d1 : Byte)
  /-- Function 0x10, flash command of relay 0 (R123). -/
  | flash0 (mode delay : U16)
  /-- Function 0x10, flash command of relay 1 (R123). -/
  | flash1 (mode delay : U16)
  /-- Function 0x10, flash command of relay 2 (R123). -/
  | flash2 (mode delay : U16)
  /-- Function 0x10, flash command of relay 3 (R123). -/
  | flash3 (mode delay : U16)
  /-- Function 0x10, every other request (R124). `rest` is the PDU from offset 5 on: the byte count
  and the data, as far as they are present. -/
  | wrRegsOther (start quantity : U16) (rest : List Byte)
  /-- Every function code that is none of the six (R89). -/
  | illegal (function : Byte)
  /-- The `TimeBase` event (R137). -/
  | tick
  /-- The `Reset` event (R180). -/
  | reset (bootAddr : Option Byte) (bootBaud : Option U32)
  /-- CRC.INIT (R70). -/
  | crcInit
  /-- CRC.BIT (R71). -/
  | crcBit
  /-- CRC.BYTE (R72). -/
  | crcByte (b : Byte)
deriving DecidableEq, Repr

/-- Whether the instruction is a request: it has bytes and a frame can carry it. The two events and the
three CRC micro-operations "never match a PDU" (R63). -/
def Instr.isRequest : Instr → Bool
  | .rdCoils _ _ | .rdInputs _ _ | .rdHold _ _ | .wrCoil _ _ | .wrCoils _ _ _ _ => true
  | .setAddr _ _ | .setBaud _ _ => true
  | .flash0 _ _ | .flash1 _ _ | .flash2 _ _ | .flash3 _ _ => true
  | .wrRegsOther _ _ _ | .illegal _ => true
  | .tick | .reset _ _ | .crcInit | .crcBit | .crcByte _ => false

end Sys2Proof
end

