-- ==== Sys2Proof/WellFormed.lean ====
section
/-! DEFINITION. Which instruction terms a frame, an event or the sub-block can present. Three constructors
carry a condition; every operand value of the others is admitted. -/

namespace Sys2Proof

/-- The six implemented function codes (R3, R56). -/
def implementedFunctions : List Byte := [0x01#8, 0x02#8, 0x03#8, 0x05#8, 0x0F#8, 0x10#8]

/-- One row of the sub-command table of function 0x10 (R57). -/
structure SubCommand where
  start     : U16
  quantity  : U16
  byteCount : Byte
  /-- Data bytes needed after the byte count. -/
  data      : Nat
deriving DecidableEq, Repr

/-- The table of R57: SETADDR, SETBAUD and the four FLASH starts. -/
def subCommands : List SubCommand :=
  [⟨0x0000#16, 1#16, 2#8, 2⟩, ⟨0x03E9#16, 1#16, 2#8, 2⟩,
   ⟨0x0003#16, 2#16, 4#8, 4⟩, ⟨0x0008#16, 2#16, 4#8, 4⟩,
   ⟨0x000D#16, 2#16, 4#8, 4⟩, ⟨0x0012#16, 2#16, 4#8, 4⟩]

/-- Whether a function 0x10 request with these fields, followed by the bytes `rest` (byte count, then data),
matches the row (R57). -/
def SubCommand.takes (c : SubCommand) (start quantity : U16) (rest : List Byte) : Bool :=
  start == c.start && quantity == c.quantity && rest.head? == some c.byteCount
    && decide (c.data + 1 ≤ rest.length)

/-- The well-formed instruction terms.
- WRCOILS: the data byte stands after the byte count, so it is present only if the byte count is (R54).
- WRREGS.OTHER: no row of R57 takes the request.
- ILLEGAL: the function code is none of the six (R56, R58). -/
def Instr.wf : Instr → Bool
  | .wrCoils _ _ byteCount d0 => byteCount.isSome || d0.isNone
  | .wrRegsOther start quantity rest => subCommands.all fun c => !c.takes start quantity rest
  | .illegal function => !implementedFunctions.contains function
  | .rdCoils _ _ | .rdInputs _ _ | .rdHold _ _ | .wrCoil _ _ => true
  | .setAddr _ _ | .setBaud _ _ => true
  | .flash0 _ _ | .flash1 _ _ | .flash2 _ _ | .flash3 _ _ => true
  | .tick | .reset _ _ | .crcInit | .crcBit | .crcByte _ => true

end Sys2Proof
end

