-- ==== Sys2Proof/Decode.lean ====
section
/-! DEFINITION. Byte helpers, the decoder from a request PDU to an instruction (R54 to R58), the encoder
written from the same tables, the machine-readable opcode table (R63) as data, and the host's view of the
decoder. The PDU is what R53 cuts out of a frame; that cut is in `Machine/Transport.lean`. -/

namespace Sys2Proof

/-! ## Byte helpers (R7) -/

/-- `lo8(v) = v[7:0]` (R7). -/
def lo8 (v : U16) : Byte := v.extractLsb' 0 8

/-- `hi8(v) = v[15:8]` (R7). -/
def hi8 (v : U16) : Byte := v.extractLsb' 8 8

/-- `u16be(h, l) = h x 256 + l` (R7, R35): the first byte on the wire is the high one. -/
def u16be (h l : Byte) : U16 := h ++ l

/-! ## Decode -/

/-- Why a byte sequence is no request PDU. -/
inductive DecodeError where
  /-- Fewer than the five bytes every request has (R54). The transport parse never hands such a PDU on
  (R81, R82: `len(pdu) >= 5`). -/
  | pduTooShort
deriving DecidableEq, Repr

/-- Second-level decode of function 0x10 on `(start, quantity, byte_count)` (R57, R120). `rest` is the PDU
from offset 5 on; a needed byte that is absent leads to WRREGS.OTHER (D10). -/
def decodeWrRegs (start quantity : U16) (rest : List Byte) : Instr :=
  match rest with
  | bc :: d0 :: d1 :: more =>
    if quantity = 1#16 ∧ bc = 2#8 then
      if start = regAddr then .setAddr d0 d1
      else if start = regBaud then .setBaud d0 d1
      else .wrRegsOther start quantity rest
    else if quantity = 2#16 ∧ bc = 4#8 then
      match more with
      | d2 :: d3 :: _ =>
        if start = 0x0003#16 then .flash0 (u16be d0 d1) (u16be d2 d3)
        else if start = 0x0008#16 then .flash1 (u16be d0 d1) (u16be d2 d3)
        else if start = 0x000D#16 then .flash2 (u16be d0 d1) (u16be d2 d3)
        else if start = 0x0012#16 then .flash3 (u16be d0 d1) (u16be d2 d3)
        else .wrRegsOther start quantity rest
      | _ => .wrRegsOther start quantity rest
    else .wrRegsOther start quantity rest
  | _ => .wrRegsOther start quantity rest

/-- First-level decode on the function code (R56). Bytes after the last field used are ignored (R54, D9). -/
def decodeFields (function : Byte) (a q : U16) (rest : List Byte) : Instr :=
  if function = 0x01#8 then .rdCoils a q
  else if function = 0x02#8 then .rdInputs a q
  else if function = 0x03#8 then .rdHold a q
  else if function = 0x05#8 then .wrCoil a q
  else if function = 0x0F#8 then .wrCoils a q rest[0]? rest[1]?
  else if function = 0x10#8 then decodeWrRegs a q rest
  else .illegal function

/-- The decoder: any bytes to an instruction or a rejection by name. -/
def decode (pdu : List Byte) : Except DecodeError Instr :=
  match pdu with
  | function :: a1 :: a0 :: q1 :: q0 :: rest => .ok (decodeFields function (u16be a1 a0) (u16be q1 q0) rest)
  | _ => .error .pduTooShort

/-! ## Encode -/

/-- The five bytes every request PDU begins with (R54): function, then two big-endian fields. -/
def pduHead (function : Byte) (a q : U16) : List Byte := [function, hi8 a, lo8 a, hi8 q, lo8 q]

/-- The PDU of a FLASH sub-command (R57, R62): `start = 0x0003 + 5k`, quantity 2, byte count 4. -/
def encodeFlash (k : Nat) (mode delay : U16) : List Byte :=
  pduHead 0x10#8 (BitVec.ofNat 16 (regFlashBase + regFlashStride * k)) 2#16
    ++ [4#8, hi8 mode, lo8 mode, hi8 delay, lo8 delay]

/-- The shortest PDU of a request (R54, R57, R61); none for the rows without encoding (R63). -/
def encode : Instr → Option (List Byte)
  | .rdCoils start quantity => some (pduHead 0x01#8 start quantity)
  | .rdInputs start quantity => some (pduHead 0x02#8 start quantity)
  | .rdHold start quantity => some (pduHead 0x03#8 start quantity)
  | .wrCoil address value => some (pduHead 0x05#8 address value)
  | .wrCoils start quantity byteCount d0 =>
    some (pduHead 0x0F#8 start quantity ++ byteCount.toList ++ d0.toList)
  | .setAddr d0 d1 => some (pduHead 0x10#8 regAddr 1#16 ++ [2#8, d0, d1])
  | .setBaud d0 d1 => some (pduHead 0x10#8 regBaud 1#16 ++ [2#8, d0, d1])
  | .flash0 mode delay => some (encodeFlash 0 mode delay)
  | .flash1 mode delay => some (encodeFlash 1 mode delay)
  | .flash2 mode delay => some (encodeFlash 2 mode delay)
  | .flash3 mode delay => some (encodeFlash 3 mode delay)
  | .wrRegsOther start quantity rest => some (pduHead 0x10#8 start quantity ++ rest)
  | .illegal function => some (pduHead function 0#16 0#16)
  | .tick | .reset _ _ | .crcInit | .crcBit | .crcByte _ => none

/-! ## The opcode table (R63) -/

/-- A matching row of `spec/opcode_table.json`: `pattern` and `mask` byte by byte from PDU byte 0, the
number of PDU bytes the instruction needs, and the row's priority (a lower number wins). -/
structure OpcodeRow where
  mnemonic  : String
  pattern   : List Byte
  mask      : List Byte
  minPduLen : Nat
  priority  : Nat
deriving DecidableEq, Repr

/-- A format A row (or WRCOILS): the function code alone decides. -/
def OpcodeRow.onFunction (mnemonic : String) (function : Byte) : OpcodeRow where
  mnemonic  := mnemonic
  pattern   := [function, 0#8, 0#8, 0#8, 0#8]
  mask      := [0xFF#8, 0#8, 0#8, 0#8, 0#8]
  minPduLen := 5
  priority  := 0

/-- A sub-command row of function 0x10: six bytes are fixed. -/
def OpcodeRow.onTriple (mnemonic : String) (sHi sLo qHi qLo bc : Byte) (minPduLen : Nat) : OpcodeRow where
  mnemonic  := mnemonic
  pattern   := [0x10#8, sHi, sLo, qHi, qLo, bc]
  mask      := [0xFF#8, 0xFF#8, 0xFF#8, 0xFF#8, 0xFF#8, 0xFF#8]
  minPduLen := minPduLen
  priority  := 0

/-- The 13 matching rows of the table, in order of priority. WRCOILS stands with the length 5 that its match
needs: "a PDU shorter than min_pdu_len is still WRCOILS". -/
def opcodeRows : List OpcodeRow :=
  [.onFunction "RDCOILS" 0x01#8, .onFunction "RDINPUTS" 0x02#8, .onFunction "RDHOLD" 0x03#8,
   .onFunction "WRCOIL" 0x05#8, .onFunction "WRCOILS" 0x0F#8,
   .onTriple "SETADDR" 0x00#8 0x00#8 0x00#8 0x01#8 0x02#8 8,
   .onTriple "SETBAUD" 0x03#8 0xE9#8 0x00#8 0x01#8 0x02#8 8,
   .onTriple "FLASH.0" 0x00#8 0x03#8 0x00#8 0x02#8 0x04#8 10,
   .onTriple "FLASH.1" 0x00#8 0x08#8 0x00#8 0x02#8 0x04#8 10,
   .onTriple "FLASH.2" 0x00#8 0x0D#8 0x00#8 0x02#8 0x04#8 10,
   .onTriple "FLASH.3" 0x00#8 0x12#8 0x00#8 0x02#8 0x04#8 10,
   ⟨"WRREGS.OTHER", [0x10#8], [0xFF#8], 5, 1⟩,
   ⟨"ILLEGAL", [0x00#8], [0x00#8], 5, 2⟩]

/-- R63: the PDU is long enough and its first bytes, under the mask, are the pattern. -/
def OpcodeRow.takes (r : OpcodeRow) (pdu : List Byte) : Bool :=
  decide (r.minPduLen ≤ pdu.length) && (List.zipWith (· &&& ·) pdu r.mask == r.pattern)

/-- The mnemonic of an instruction's row. -/
def Instr.mnemonic : Instr → String
  | .rdCoils _ _ => "RDCOILS"
  | .rdInputs _ _ => "RDINPUTS"
  | .rdHold _ _ => "RDHOLD"
  | .wrCoil _ _ => "WRCOIL"
  | .wrCoils _ _ _ _ => "WRCOILS"
  | .setAddr _ _ => "SETADDR"
  | .setBaud _ _ => "SETBAUD"
  | .flash0 _ _ => "FLASH.0"
  | .flash1 _ _ => "FLASH.1"
  | .flash2 _ _ => "FLASH.2"
  | .flash3 _ _ => "FLASH.3"
  | .wrRegsOther _ _ _ => "WRREGS.OTHER"
  | .illegal _ => "ILLEGAL"
  | .tick => "TICK"
  | .reset _ _ => "RESET"
  | .crcInit => "CRC.INIT"
  | .crcBit => "CRC.BIT"
  | .crcByte _ => "CRC.BYTE"

/-! ## The decoder as the host asks it -/

/-- The length of the longest request the decoder reads to the end: FLASH (R61). -/
def longestPdu : Nat := 10

/-- The PDU whose byte j is bits 8j+7..8j of `w`, zeros above `nbits` (log 12). -/
def tableWordPdu (nbits w : Nat) : List Byte :=
  (List.range (max longestPdu (nbits / 8))).map fun j => BitVec.ofNat 8 ((w % 2 ^ nbits) >>> (8 * j))

/-- The instruction the decoder reads from the request whose bits are `w`; none for a row without bits. -/
def decodeTableWord (nbits w : Nat) : Option Instr :=
  if nbits = 0 then none else (decode (tableWordPdu nbits w)).toOption

end Sys2Proof
end

