-- ==== Sys2Proof/Machine/Checksum.lean ====
section
/-! DEFINITION. The CRC-16/Modbus generator and checker as functions (R70 to R76). The micro-operations on
the accumulator of State are in `Machine/CrcInstr.lean`, over the same rounds. -/

namespace Sys2Proof.Machine

/-- One round, CRC.BIT (R71): a logical right shift, and the polynomial when bit 0 was set. -/
def crcRound (acc : U16) : U16 := if acc[0] then (acc >>> 1) ^^^ crcPoly else acc >>> 1

/-- `n` rounds. -/
def crcRounds : Nat → U16 → U16
  | 0, acc => acc
  | n + 1, acc => crcRounds n (crcRound acc)

/-- Absorb one byte, CRC.BYTE (R72): only the low byte of the accumulator changes before the 8 rounds. -/
def crcAbsorb (acc : U16) (b : Byte) : U16 := crcRounds 8 (acc ^^^ b.setWidth 16)

/-- `crc16(bs)` (R73). It reads no state and writes none. -/
def crc16 (bs : List Byte) : U16 := bs.foldl crcAbsorb crcInitValue

/-- `crc_append(bs)` (R74): the low byte of the checksum comes first (R34). -/
def crcAppend (bs : List Byte) : List Byte := bs ++ [lo8 (crc16 bs), hi8 (crc16 bs)]

/-- `crc_ok(f)` (R75): the checksum of all bytes but the last two is the last two read low byte first.
It is asked only of frames of two bytes or more; a shorter one is answered false. -/
def crcOk (f : List Byte) : Bool :=
  match f.drop (f.length - 2) with
  | [lo, hi] => crc16 (f.take (f.length - 2)) == u16be hi lo
  | _ => false

end Sys2Proof.Machine
end

