-- ==== Sys2Proof/Machine/State.lean ====
section
/-! DEFINITION. The state of the block as plain data (R10), its input and output events (R6), the reasons
a step can stop, and the state after reset (R22). -/

namespace Sys2Proof.Machine

/-- One relay with its timer slot (R10, R18): the coil bit, and `active`, `period`, `cnt`. The source's
`current_output_state` is the coil bit itself (R11, D20). -/
structure Relay where
  coil   : Bool
  active : Bool
  period : U16
  cnt    : U16
deriving DecidableEq, Repr

/-- A relay after reset: OFF and Static (R22). -/
def Relay.off : Relay where
  coil   := false
  active := false
  period := 0#16
  cnt    := 0#16

/-- The two abstract keys of the persistence store (R162). -/
inductive StoreKey where
  | keyAddr
  | keyBaud
deriving DecidableEq, Repr

/-- The input events (R6). -/
inductive InEvent where
  | reset (bootAddr : Option Byte) (bootBaud : Option U32)
  | frameIn (f : List Byte)
  | timeBase
deriving DecidableEq, Repr

/-- What the environment presents at one moment: one event, or a frame and a strobe together (R43). -/
inductive Stimulus where
  | single (e : InEvent)
  | together (f : List Byte)
deriving DecidableEq, Repr

/-- The output events (R6, R161 to R163). `readInput` records a query and the answer it got. -/
inductive OutEvent where
  | frameOut (g : List Byte)
  | setRelay (c : Nat) (v : Bool)
  | readInput (i : Nat) (v : Bool)
  | persistU8 (key : StoreKey) (v : Byte)
  | persistU32 (key : StoreKey) (v : U32)
deriving DecidableEq, Repr

/-- The faults of the block: none. R150: "The block has no fault state, no halt and no lock-up". Nothing
raises a fault, and no meaning can; the empty type says so (log 16). -/
inductive Fault where
deriving DecidableEq, Repr

/-- The reasons a step has no meaning. -/
inductive Refusal where
  /-- An arm of `exec` that has no meaning yet. No arm raises it. Safe. -/
  | notModelled (mnemonic : String)
  /-- Raised by the fetch when a frame or a strobe is presented before the first `Reset`: "a model gives such
  an event no step" (R182, D35, M3). Safe: the spec describes no behaviour here. -/
  | beforeFirstReset
  /-- Raised by the fetch when a frame longer than FRAME_MAX is presented: "the model refuses it at the
  interface" (R50, D9, M2). Safe: the spec describes no behaviour here. -/
  | frameTooLong
deriving DecidableEq, Repr

/-- The state. The first three fields are the block's architectural state (R10); `acc` and `hdr` are
transient values the spec names (R19, R53); the rest is the model's own. -/
structure State where
  /-- `coil[c]`, `active[c]`, `period[c]`, `cnt[c]` for relay `c` (R10). N_COILS entries. -/
  relays   : List Relay
  /-- The device address (R14). -/
  addr     : Byte
  /-- The baud-rate code, an output level (R15). -/
  baudCode : BaudCode
  /-- The accumulator of the CRC sub-block between micro-operations (R19, R77; log 7). -/
  acc      : U16
  /-- The header bytes kept for the response of the request being served (R53); empty between steps (log 8). -/
  hdr      : List Byte
  /-- The construction parameters (R5), which no step changes (log 1). -/
  cfg      : Config
  /-- Whether the first `Reset` has been presented (R182; log 2). -/
  started  : Bool
  /-- What the environment presents next, oldest first (R42; log 3). -/
  pending  : List Stimulus
  /-- The environment's answers to the next queries, where a run fixes them (R32; log 5). -/
  answers  : List Bool
  /-- How many queries were made: it numbers the free answers (log 5). -/
  queries  : Nat
  /-- How many times a frame and a strobe came together: it numbers the free choices (log 6). -/
  ties     : Nat
  /-- The output events so far, oldest first (R9 `emit`; log 4). -/
  out      : List OutEvent
deriving DecidableEq, Repr

/-- The state right after `Reset(none, none)` on an instance with the parameters `cfg` (R22, R180, R181):
every coil OFF, every timer inactive, `addr` unconfigured, `baud_code` at its default, no output event. -/
def State.boot (cfg : Config) : State where
  relays   := List.replicate cfg.nCoils Relay.off
  addr     := addrUnconfigured
  baudCode := cfg.baudDefault
  acc      := crcInitValue
  hdr      := []
  cfg      := cfg
  started  := true
  pending  := []
  answers  := []
  queries  := 0
  ties     := 0
  out      := []

/-- The machine right after reset. DESIGN CHOICE (unsafe): the parameters (log 1), the two arguments `none`
of the `Reset` event (log 2) and the values of the fields that are not the spec's state (logs 3 to 8). -/
def State.reset : State := State.boot Config.rtuDefault

end Sys2Proof.Machine
end

