-- ==== Sys2Proof/Machine/Operands.lean ====
section
/-! DEFINITION. The operand forms (R55), the value checks, the bitmask of a response (R103), and the boot
value functions (R181). -/

namespace Sys2Proof.Machine

/-- The coil value of WRCOIL (R55, R110): 0xFF00 is ON, 0x0000 is OFF, nothing else is well-formed. -/
def coilValue (value : U16) : Option Bool :=
  if value = 0xFF00#16 then some true else if value = 0x0000#16 then some false else none

/-- The initial state of a flash command (R123, D19): ON for the modes 0x0001 and 0x0003, compared on all 16
bits, OFF for every other. -/
def flashOn (mode : U16) : Bool := mode == 0x0001#16 || mode == 0x0003#16

/-- The relay of a flash command (R55, R92): `k = (start - 0x0003) / 5`, exact for the four legal starts. -/
def flashRelay (start : U16) : Nat := (start.toNat - regFlashBase) / regFlashStride

/-- The legal device addresses (R14): 1 to 247, and the sentinel 0xFF. -/
def addrLegal (v : Byte) : Bool := (decide (addrMin ≤ v.toNat) && decide (v.toNat ≤ addrMax)) || v == addrUnconfigured

/-- The byte that carries a baud-rate code (R15). -/
def baudCodeByte : BaudCode → Byte
  | .c02 => 0x02#8
  | .c03 => 0x03#8
  | .c04 => 0x04#8

/-- The code a data byte carries, if it is a recognised one (R122). -/
def baudCodeOfByte (v : Byte) : Option BaudCode :=
  if v = 0x02#8 then some .c02 else if v = 0x03#8 then some .c03 else if v = 0x04#8 then some .c04 else none

/-- `baud_rate(code)` in bits per second (R15). -/
def baudRate : BaudCode → U32
  | .c02 => 4800#32
  | .c03 => 9600#32
  | .c04 => 19200#32

/-- `baud_code_of(rate)` (R15): the inverse of `baudRate`. -/
def baudCodeOf (rate : U32) : Option BaudCode :=
  if rate = 4800#32 then some .c02 else if rate = 9600#32 then some .c03
  else if rate = 19200#32 then some .c04 else none

/-- `boot_addr_value` (R181): an illegal stored address is treated as absent (D24). -/
def bootAddrValue : Option Byte → Byte
  | some v => if addrLegal v then v else addrUnconfigured
  | none => addrUnconfigured

/-- `boot_baud_value` (R181): an illegal stored rate is treated as absent (D24). -/
def bootBaudValue (cfg : Config) : Option U32 → BaudCode
  | some rate => (baudCodeOf rate).getD cfg.baudDefault
  | none => cfg.baudDefault

/-- The sum of `bits[i] x 2^i` (R103). -/
def packNat : List Bool → Nat
  | [] => 0
  | b :: bits => b.toNat + 2 * packNat bits

/-- `pack(bits)`, the bitmask byte of a read response (R103, R36): the first item is bit 0. -/
def pack (bits : List Bool) : Byte := BitVec.ofNat 8 (packNat bits)

/-- The bits 0 .. n-1 of a WRCOILS data byte, for coils 0 .. n-1 (R111, R36). -/
def dataBits (n : Nat) (d0 : Byte) : List Bool := (List.range n).map d0.getLsbD

/-- The range check of the reads (R100, R101, D11). The sum is taken in the naturals and never wraps. -/
def rangeOk (start quantity : U16) (n : Nat) : Bool :=
  decide (1 ≤ quantity.toNat) && decide (start.toNat + quantity.toNat ≤ n)

/-- The period of a running timer in milliseconds (R136): `delay_time x 100 ms`. No rule computes it. -/
def Relay.periodMs (r : Relay) : Nat := r.period.toNat * tbUnitMs

/-- The external view of `baud_code` (R15): the line rate it asks for. -/
def State.lineRate (s : State) : U32 := baudRate s.baudCode

end Sys2Proof.Machine
end

