-- ==== Sys2Proof/Machine/Flags.lean ====
section
/-! DEFINITION. The block has no flags, condition codes or predicates (R17), so there is no flag to compute.
What the spec sets apart in R17 as "not a flag register" stands here: the bit 0x80 of the function byte of a
response that marks an exception, and the exception codes. -/

namespace Sys2Proof.Machine

/-- The three protocol exceptions (R152). -/
inductive ExcCode where
  /-- 0x01, illegal function. -/
  | illegalFunction
  /-- 0x02, illegal data address. -/
  | illegalAddress
  /-- 0x03, illegal data value. -/
  | illegalValue
deriving DecidableEq, Repr

/-- The code byte of an exception response (R60, R152). -/
def excCodeByte : ExcCode → Byte
  | .illegalFunction => 0x01#8
  | .illegalAddress => 0x02#8
  | .illegalValue => 0x03#8

/-- The function byte of an exception response (R60, R87): bit 7 is set, whatever it was. -/
def excFunction (function : Byte) : Byte := function ||| 0x80#8

/-- The exception response PDU (R60). -/
def excPdu (function : Byte) (code : ExcCode) : List Byte := [excFunction function, excCodeByte code]

end Sys2Proof.Machine
end

