-- ==== Sys2Proof/Machine/Ops.lean ====
section
/-! DEFINITION. The named operations over registers, the address spaces and the interfaces (R9, R31, R32), the
response serialisers (R85, R86), raising a protocol exception (R87, R156), and the two operations of the
relay timer controller (R136, R137). -/

namespace Sys2Proof.Machine

/-! ## Output events -/

/-- `emit E` (R9). -/
def State.emit (s : State) (e : OutEvent) : State := { s with out := s.out ++ [e] }

/-! ## The COIL space (R31) -/

/-- Register write to one relay. -/
def State.modifyRelay (s : State) (c : Nat) (f : Relay → Relay) : State :=
  { s with relays := s.relays.modify c f }

/-- `coil[c]` (R11). A coil that does not exist is read by no rule; it is answered OFF (log 15). -/
def State.coilAt (s : State) (c : Nat) : Bool :=
  match s.relays[c]? with
  | some r => r.coil
  | none => false

/-- `MemRead(COIL, a, n)` (R31): no side effect, lowest address first. -/
def State.readCoils (s : State) (a n : Nat) : List Bool := (List.range n).map fun i => s.coilAt (a + i)

/-- `coil[c] <- v ; emit SetRelay(c, v)` (R31, R11). -/
def State.writeCoil (s : State) (c : Nat) (v : Bool) : State :=
  (s.modifyRelay c fun r => { r with coil := v }).emit (.setRelay c v)

/-- `MemWrite(COIL, a, n, v)` (R31): one write and one event for each item, in ascending order. -/
def State.writeCoils (s : State) (a : Nat) : List Bool → State
  | [] => s
  | v :: vs => (s.writeCoil a v).writeCoils (a + 1) vs

/-! ## The INPUT space (R32) -/

/-- The environment's answer to the query `j` queries from now: the one the run fixes, else a free value. -/
def State.answer (s : State) (j : Nat) : Bool :=
  match s.answers[j]? with
  | some v => v
  | none => Config.inputAnswer (s.queries + j)

/-- One query `read_input(i)` (R32): its answer, and the state that has recorded it. -/
def State.readInput (s : State) (i : Nat) : Bool × State :=
  (s.answer 0,
   { s with answers := s.answers.tail, queries := s.queries + 1 }.emit (.readInput i (s.answer 0)))

/-- `MemRead(INPUT, a, n)` (R32): exactly n queries, in ascending order. -/
def State.readInputs (s : State) (a : Nat) : Nat → List Bool × State
  | 0 => ([], s)
  | n + 1 =>
    let first := s.readInput a
    let others := first.2.readInputs (a + 1) n
    (first.1 :: others.1, others.2)

/-! ## Responses -/

/-- `serialise_rtu(hdr, rsp)` (R85). -/
def serialiseRtu (hdr rsp : List Byte) : List Byte := crcAppend (hdr ++ rsp)

/-- `serialise_tcp(hdr, rsp)` (R86): the header is copied and its length field, bytes 4 and 5, rewritten to
the number of bytes after it. -/
def serialiseTcp (hdr rsp : List Byte) : List Byte :=
  let g := hdr ++ rsp
  let l : U16 := BitVec.ofNat 16 (g.length - 6)
  (g.set 4 (hi8 l)).set 5 (lo8 l)

/-- The response frame of the instance's transport (R80 stage 3). -/
def serialise (transport : Transport) (hdr rsp : List Byte) : List Byte :=
  match transport with
  | .rtu => serialiseRtu hdr rsp
  | .tcp => serialiseTcp hdr rsp

/-- Whether the response of the request being served is left out: BCAST_REPLY is false and the request is
an RTU broadcast (R91, D6). In TCP unit id 0x00 has no special meaning. -/
def State.muted (s : State) : Bool :=
  s.cfg.transport == .rtu && !s.cfg.bcastReply && s.hdr.head? == some broadcast

/-- The output events of the response `rsp` to the request being served: one frame, unless it is muted. -/
def State.responseEvents (s : State) (rsp : List Byte) : List OutEvent :=
  if s.muted then [] else [.frameOut (serialise s.cfg.transport s.hdr rsp)]

/-- `reply(r)` (R9, R80 stage 3, R90): the response is the last output of the step, and the header kept for
it is done with. -/
def State.respond (s : State) (rsp : List Byte) : State :=
  { s with out := s.out ++ s.responseEvents rsp, hdr := [] }

/-! ## Taking a protocol exception -/

/-- `raise Exc(code)` (R9, R87, R156): the exception response is sent, nothing else is written or emitted,
nothing is saved and no mode changes. There is no return from it: an exception ends with its step (R157). -/
def State.raiseExc (s : State) (function : Byte) (code : ExcCode) : State := s.respond (excPdu function code)

/-! ## Persistence (R162) -/

/-- `set_u8(KEY_ADDR, v)`: an event without an acknowledgement (R153). -/
def State.persistAddr (s : State) (v : Byte) : State := s.emit (.persistU8 .keyAddr v)

/-- `set_u32(KEY_BAUD, rate)`: what is persisted is the rate (R122, D37). -/
def State.persistBaud (s : State) (rate : U32) : State := s.emit (.persistU32 .keyBaud rate)

/-! ## The relay timer controller -/

/-- R136 part 1: tear down whatever timer the relay has. -/
def Relay.cancelTimer (r : Relay) : Relay := { r with active := false, period := 0#16, cnt := 0#16 }

/-- R136 part 3: start a timer with this period, at its first phase. -/
def Relay.startTimer (delay : U16) (r : Relay) : Relay := { r with period := delay, cnt := delay, active := true }

/-- `flash_apply(c, on, delay_time)` (R136): cancel, set the output, start unless the command is static. -/
def State.flashApply (s : State) (c : Nat) (on : Bool) (delay : U16) : State :=
  let set := (s.modifyRelay c Relay.cancelTimer).writeCoil c on
  if delay = 0#16 then set else set.modifyRelay c (Relay.startTimer delay)

/-- Whether this strobe toggles the relay (R137): its timer runs and its count is 1. -/
def Relay.expires (r : Relay) : Bool := r.active && r.cnt == 1#16

/-- The body of the loop of R137 for one relay. -/
def Relay.tick (r : Relay) : Relay :=
  if r.expires then { r with coil := !r.coil, cnt := r.period }
  else if r.active then { r with cnt := r.cnt - 1#16 }
  else r

/-- The `SetRelay` events of one strobe for the relays from number `c` on, in ascending order (R137): one for
each relay that toggles, with the new value. -/
def tickEvents (c : Nat) : List Relay → List OutEvent
  | [] => []
  | r :: rs => if r.expires then .setRelay c r.tick.coil :: tickEvents (c + 1) rs else tickEvents (c + 1) rs

/-- `on TimeBase` (R137): all relays in one atomic step. -/
def State.tickRelays (s : State) : State :=
  { s with relays := s.relays.map Relay.tick, out := s.out ++ tickEvents 0 s.relays }

/-! ## The Reset event -/

/-- `on Reset` (R180): coils, timers, `addr` and `baud_code`; no output event. -/
def State.resetEvent (s : State) (bootAddr : Option Byte) (bootBaud : Option U32) : State :=
  { s with
    relays := List.replicate s.cfg.nCoils Relay.off
    addr := bootAddrValue bootAddr
    baudCode := bootBaudValue s.cfg bootBaud
    started := true }

end Sys2Proof.Machine
end

