-- ==== Sys2Proof/Machine/Transport.lean ====
section
/-! DEFINITION. Stage 1 of the `FrameIn` step (R80): the transport parse and its rejections (R81, R82, R151). -/

namespace Sys2Proof.Machine

/-- The transport-level rejections (R151). They record nothing: the frame is dropped (R88). -/
inductive DropReason where
  | tooShort
  | crcMismatch
  | unitIdMismatch
deriving DecidableEq, Repr

/-- The header bytes kept for the response, and the PDU (R53). -/
abbrev Parsed := List Byte × List Byte

/-- `parse_rtu(f)` (R81): length, then checksum, then unit id; the device address or broadcast is accepted. -/
def parseRtu (addr : Byte) (f : List Byte) : Except DropReason Parsed :=
  if f.length < rtuMinLen then .error .tooShort
  else if !crcOk f then .error .crcMismatch
  else if f.head? ≠ some addr ∧ f.head? ≠ some broadcast then .error .unitIdMismatch
  else .ok (f.take 1, (f.take (f.length - 2)).drop 1)

/-- `parse_tcp(f)` (R82): the length and nothing else. -/
def parseTcp (f : List Byte) : Except DropReason Parsed :=
  if f.length < tcpMinLen then .error .tooShort else .ok (f.take tcpHdrLen, f.drop tcpHdrLen)

/-- The parse of the instance's transport (R80 stage 1). -/
def State.parse (s : State) (f : List Byte) : Except DropReason Parsed :=
  match s.cfg.transport with
  | .rtu => parseRtu s.addr f
  | .tcp => parseTcp f

end Sys2Proof.Machine
end

