-- ==== Sys2Proof/Machine/Assembler.lean ====
section
/-! DEFINITION. The assembler notation of R62: envelopes around a PDU, and the pseudo-instructions. The host's
word reaches the block in such an envelope (`State.withFetchWord`). -/

namespace Sys2Proof.Machine

/-- `u=<unit id>` around a PDU (R51, R62): the assembler computes the CRC. -/
def rtuFrame (unitId : Byte) (pdu : List Byte) : List Byte := crcAppend (unitId :: pdu)

/-- `t=<transaction id> p=<protocol id> u=<unit>` around a PDU (R52, R62): the assembler computes the length
field, `len(pdu) + 1`. -/
def tcpFrame (transactionId protocolId : U16) (unitId : Byte) (pdu : List Byte) : List Byte :=
  let l : U16 := BitVec.ofNat 16 (pdu.length + 1)
  [hi8 transactionId, lo8 transactionId, hi8 protocolId, lo8 protocolId, hi8 l, lo8 l, unitId] ++ pdu

/-- `COILON c` (R62). -/
def asmCoilOn (c : U16) : Instr := .wrCoil c 0xFF00#16

/-- `COILOFF c` (R62). -/
def asmCoilOff (c : U16) : Instr := .wrCoil c 0x0000#16

/-- `SETADDR v` with a 16-bit value (R62). -/
def asmSetAddr (v : U16) : Instr := .setAddr (hi8 v) (lo8 v)

/-- `SETBAUD v` with a 16-bit value (R62). -/
def asmSetBaud (v : U16) : Instr := .setBaud (hi8 v) (lo8 v)

/-- `TICK n` (R62). -/
def asmTicks (n : Nat) : List Instr := List.replicate n .tick

/-- A frame this instance accepts (R81, R82) that carries the PDU: addressed to the device itself. -/
def State.acceptedFrame (s : State) (pdu : List Byte) : List Byte :=
  match s.cfg.transport with
  | .rtu => rtuFrame s.addr pdu
  | .tcp => tcpFrame 0#16 0#16 s.addr pdu

end Sys2Proof.Machine
end

