-- ==== Sys2Proof/Machine/CrcInstr.lean ====
section
/-! DEFINITION. The micro-operations of the CRC sub-block on its accumulator (R70 to R72, R77). No request
reaches them; a frame's checksum is the function `crc16` over the same rounds (R73, log 7). -/

namespace Sys2Proof.Machine

/-- CRC.INIT (R70). -/
def execCrcInit (s : State) : Host.Outcome State Fault Refusal := .next { s with acc := crcInitValue }

/-- CRC.BIT (R71). -/
def execCrcBit (s : State) : Host.Outcome State Fault Refusal := .next { s with acc := crcRound s.acc }

/-- CRC.BYTE (R72). -/
def execCrcByte (b : Byte) (s : State) : Host.Outcome State Fault Refusal := .next { s with acc := crcAbsorb s.acc b }

end Sys2Proof.Machine
end

