-- ==== Sys2Proof/Machine/Events.lean ====
section
/-! DEFINITION. The two events that are no frame: the time base (`45_relay_timer.md`) and reset
(`70_reset_and_hazards.md`). Neither is answered. -/

namespace Sys2Proof.Machine

/-- TICK (R137). -/
def execTick (s : State) : Host.Outcome State Fault Refusal := .next s.tickRelays

/-- RESET (R180). -/
def execReset (bootAddr : Option Byte) (bootBaud : Option U32) (s : State) : Host.Outcome State Fault Refusal :=
  .next (s.resetEvent bootAddr bootBaud)

end Sys2Proof.Machine
end

