-- ==== Sys2Proof/Machine/Read.lean ====
section
/-! DEFINITION. The read functions 0x01, 0x02, 0x03 (`42_read.md`). -/

namespace Sys2Proof.Machine

/-- RDCOILS (R100). -/
def execRdCoils (start quantity : U16) (s : State) : Host.Outcome State Fault Refusal :=
  if rangeOk start quantity s.cfg.nCoils then
    .next (s.respond [0x01#8, 0x01#8, pack (s.readCoils start.toNat quantity.toNat)])
  else .next (s.raiseExc 0x01#8 .illegalAddress)

/-- RDINPUTS (R101): the queries are made only after the range check. -/
def execRdInputs (start quantity : U16) (s : State) : Host.Outcome State Fault Refusal :=
  if rangeOk start quantity s.cfg.nInputs then
    let answered := s.readInputs start.toNat quantity.toNat
    .next (answered.2.respond [0x02#8, 0x01#8, pack answered.1])
  else .next (s.raiseExc 0x02#8 .illegalAddress)

/-- RDHOLD (R102): only the device address register, alone. -/
def execRdHold (start quantity : U16) (s : State) : Host.Outcome State Fault Refusal :=
  if start = regAddr ∧ quantity = 1#16 then .next (s.respond [0x03#8, 0x02#8, 0x00#8, s.addr])
  else .next (s.raiseExc 0x03#8 .illegalAddress)

end Sys2Proof.Machine
end

