-- ==== Sys2Proof/Machine/Unknown.lean ====
section
/-! DEFINITION. The unknown function code (`41_frame.md`). -/

namespace Sys2Proof.Machine

/-- ILLEGAL (R89): always exception 0x01, with the function byte as received (R87). -/
def execIllegal (function : Byte) (s : State) : Host.Outcome State Fault Refusal :=
  .next (s.raiseExc function .illegalFunction)

end Sys2Proof.Machine
end

