-- ==== Sys2Proof/Machine/WriteCoils.lean ====
section
/-! DEFINITION. The coil write functions 0x05, 0x0F (`43_write_coils.md`). No timer is touched (R139). -/

namespace Sys2Proof.Machine

/-- WRCOIL (R110): the address is checked before the value. -/
def execWrCoil (address value : U16) (s : State) : Host.Outcome State Fault Refusal :=
  if address.toNat < s.cfg.nCoils then
    match coilValue value with
    | some on => .next ((s.writeCoils address.toNat [on]).respond (pduHead 0x05#8 address value))
    | none => .next (s.raiseExc 0x05#8 .illegalValue)
  else .next (s.raiseExc 0x05#8 .illegalAddress)

/-- WRCOILS (R111): only the full-bank write with one data byte. -/
def execWrCoils (start quantity : U16) (byteCount d0 : Option Byte) (s : State) :
    Host.Outcome State Fault Refusal :=
  match byteCount, d0 with
  | some bc, some d =>
    if start = 0x0000#16 ∧ quantity.toNat = s.cfg.nCoils ∧ bc = 1#8 then
      .next ((s.writeCoils 0 (dataBits s.cfg.nCoils d)).respond (pduHead 0x0F#8 start quantity))
    else .next (s.raiseExc 0x0F#8 .illegalAddress)
  | _, _ => .next (s.raiseExc 0x0F#8 .illegalAddress)

end Sys2Proof.Machine
end

