-- ==== Sys2Proof/Machine/WriteRegisters.lean ====
section
/-! DEFINITION. The register write function 0x10 and its sub-commands (`44_write_registers.md`). Every accepted
sub-command echoes start and quantity (R120). -/

namespace Sys2Proof.Machine

/-- SETADDR (R121): the address is the low data byte; a value out of range is acknowledged and changes
nothing (I1, C3). -/
def execSetAddr (_d0 d1 : Byte) (s : State) : Host.Outcome State Fault Refusal :=
  let applied := if addrLegal d1 then { s with addr := d1 }.persistAddr d1 else s
  .next (applied.respond (pduHead 0x10#8 regAddr 1#16))

/-- SETBAUD (R122): the code is the low data byte; an unrecognised one is acknowledged and changes nothing. -/
def execSetBaud (_d0 d1 : Byte) (s : State) : Host.Outcome State Fault Refusal :=
  let applied :=
    match baudCodeOfByte d1 with
    | some code => { s with baudCode := code }.persistBaud (baudRate code)
    | none => s
  .next (applied.respond (pduHead 0x10#8 regBaud 1#16))

/-- FLASH at one of its four starts (R123): exception 0x02 for a relay the bank does not have (D18). -/
def flashCommand (start mode delay : U16) (s : State) : State :=
  if flashRelay start < s.cfg.nCoils then
    (s.flashApply (flashRelay start) (flashOn mode) delay).respond (pduHead 0x10#8 start 2#16)
  else s.raiseExc 0x10#8 .illegalAddress

/-- FLASH.0 (R123). -/
def execFlash0 (mode delay : U16) (s : State) : Host.Outcome State Fault Refusal :=
  .next (flashCommand 0x0003#16 mode delay s)

/-- FLASH.1 (R123). -/
def execFlash1 (mode delay : U16) (s : State) : Host.Outcome State Fault Refusal :=
  .next (flashCommand 0x0008#16 mode delay s)

/-- FLASH.2 (R123). -/
def execFlash2 (mode delay : U16) (s : State) : Host.Outcome State Fault Refusal :=
  .next (flashCommand 0x000D#16 mode delay s)

/-- FLASH.3 (R123). -/
def execFlash3 (mode delay : U16) (s : State) : Host.Outcome State Fault Refusal :=
  .next (flashCommand 0x0012#16 mode delay s)

/-- WRREGS.OTHER (R124): always exception 0x02; no operand is used. -/
def execWrRegsOther (_start _quantity : U16) (_rest : List Byte) (s : State) : Host.Outcome State Fault Refusal :=
  .next (s.raiseExc 0x10#8 .illegalAddress)

end Sys2Proof.Machine
end

