-- ==== Sys2Proof/Machine/Dispatch.lean ====
section
/-! DEFINITION. One arm for each instruction (R84 for the requests). -/

namespace Sys2Proof.Machine

def exec (i : Instr) (s : State) : Host.Outcome State Fault Refusal :=
  match i with
  | .rdCoils start quantity => Sys2Proof.Machine.execRdCoils start quantity s
  | .rdInputs start quantity => Sys2Proof.Machine.execRdInputs start quantity s
  | .rdHold start quantity => Sys2Proof.Machine.execRdHold start quantity s
  | .wrCoil address value => Sys2Proof.Machine.execWrCoil address value s
  | .wrCoils start quantity byteCount d0 => Sys2Proof.Machine.execWrCoils start quantity byteCount d0 s
  | .setAddr d0 d1 => Sys2Proof.Machine.execSetAddr d0 d1 s
  | .setBaud d0 d1 => Sys2Proof.Machine.execSetBaud d0 d1 s
  | .flash0 mode delay => Sys2Proof.Machine.execFlash0 mode delay s
  | .flash1 mode delay => Sys2Proof.Machine.execFlash1 mode delay s
  | .flash2 mode delay => Sys2Proof.Machine.execFlash2 mode delay s
  | .flash3 mode delay => Sys2Proof.Machine.execFlash3 mode delay s
  | .wrRegsOther start quantity rest => Sys2Proof.Machine.execWrRegsOther start quantity rest s
  | .illegal function => Sys2Proof.Machine.execIllegal function s
  | .tick => Sys2Proof.Machine.execTick s
  | .reset bootAddr bootBaud => Sys2Proof.Machine.execReset bootAddr bootBaud s
  | .crcInit => Sys2Proof.Machine.execCrcInit s
  | .crcBit => Sys2Proof.Machine.execCrcBit s
  | .crcByte b => Sys2Proof.Machine.execCrcByte b s

end Sys2Proof.Machine
end

