-- ==== Sys2Proof/Machine/Fetch.lean ====
section
/-! DEFINITION. Which instruction the block runs next. It has no program counter; "its program is the sequence
of input events the environment supplies" (R16). The fetch takes the next event, refuses what may not be
presented, drops what the transport rejects, and decodes the rest. -/

namespace Sys2Proof.Machine

/-- What the next event comes to. -/
inductive Fetched where
  /-- Nothing is presented: the block is idle and holds its state (R166). -/
  | idle
  /-- A frame is dropped (R88); the state is the one before, with the frame taken. -/
  | dropped (why : DropReason) (s : State)
  /-- The event may not be presented (R50, R182). -/
  | refuse (r : Refusal)
  /-- The event runs an instruction. -/
  | run (i : Instr) (s : State)
deriving DecidableEq, Repr

/-- The next event, and the state that has taken it. Where a frame and a strobe are presented together either
is served first, by a free choice (R43, D3), and the other is the next event. -/
def State.nextEvent (s : State) : Option (InEvent × State) :=
  match s.pending with
  | [] => none
  | .single e :: rest => some (e, { s with pending := rest })
  | .together f :: rest =>
    if Config.frameFirst s.ties then
      some (.frameIn f, { s with pending := .single .timeBase :: rest, ties := s.ties + 1 })
    else
      some (.timeBase, { s with pending := .single (.frameIn f) :: rest, ties := s.ties + 1 })

/-- One frame (R50, R80 stage 1): parsed and decoded, with its header kept for the response. A PDU the decoder
rejects is too short, as in R81; the parse lets none through (log 13). -/
def State.fetchFrame (s : State) (f : List Byte) : Fetched :=
  if s.cfg.frameMax < f.length then .refuse .frameTooLong
  else
    match s.parse f with
    | .error why => .dropped why s
    | .ok (hdr, pdu) =>
      match decode pdu with
      | .error .pduTooShort => .dropped .tooShort s
      | .ok i => .run i { s with hdr := hdr }

/-- The instruction of an event. Before the first `Reset` only `Reset` may be presented (R182). -/
def State.fetchEvent (s : State) : InEvent → Fetched
  | .reset bootAddr bootBaud => .run (.reset bootAddr bootBaud) s
  | .timeBase => if s.started then .run .tick s else .refuse .beforeFirstReset
  | .frameIn f => if s.started then s.fetchFrame f else .refuse .beforeFirstReset

/-- The fetch of one step. -/
def State.fetch (s : State) : Fetched :=
  match s.nextEvent with
  | none => .idle
  | some (e, s') => s'.fetchEvent e

end Sys2Proof.Machine
end

