-- ==== Sys2Proof/Machine/Step.lean ====
section
/-! DEFINITION. One step of the block: the next event is fetched and the instruction it runs is executed
(R6, R80). -/

namespace Sys2Proof.Machine

/-- One step. An idle block and a dropped frame go on with the state unchanged but for the event taken
(R88, R166). -/
def step (s : State) : Host.Outcome State Fault Refusal :=
  match s.fetch with
  | .idle => .next s
  | .dropped _ s' => .next s'
  | .refuse r => .refused r
  | .run i s' => exec i s'

/-- `s` with the request whose bits are `w` presented next, in an envelope the instance accepts, and the
block past its first `Reset` so that the event is served (log 12). -/
def State.withFetchWord (s : State) (nbits w : Nat) : State :=
  { s with
    started := true
    pending := .single (.frameIn (s.acceptedFrame (tableWordPdu nbits w))) :: s.pending }

end Sys2Proof.Machine
end

