-- ==== Sys2Proof/Safety.lean ====
section
/-! DEFINITION. The terms claims are stated in: the invariants of R14 and R18, a request served, runs of
several instructions, the exception table of R152, and the writers of R10. -/

namespace Sys2Proof

/-- The function byte of a request (R54 offset 0). -/
def Instr.functionByte : Instr → Option Byte
  | .rdCoils _ _ => some 0x01#8
  | .rdInputs _ _ => some 0x02#8
  | .rdHold _ _ => some 0x03#8
  | .wrCoil _ _ => some 0x05#8
  | .wrCoils _ _ _ _ => some 0x0F#8
  | .setAddr _ _ | .setBaud _ _ => some 0x10#8
  | .flash0 _ _ | .flash1 _ _ | .flash2 _ _ | .flash3 _ _ => some 0x10#8
  | .wrRegsOther _ _ _ => some 0x10#8
  | .illegal function => some function
  | .tick | .reset _ _ | .crcInit | .crcBit | .crcByte _ => none

/-! ## Writers (the column "written by" of R10) -/

/-- The instructions that write a coil (R10). -/
def Instr.writesCoils : Instr → Bool
  | .wrCoil _ _ | .wrCoils _ _ _ _ | .tick | .reset _ _ => true
  | .flash0 _ _ | .flash1 _ _ | .flash2 _ _ | .flash3 _ _ => true
  | .rdCoils _ _ | .rdInputs _ _ | .rdHold _ _ | .setAddr _ _ | .setBaud _ _ => false
  | .wrRegsOther _ _ _ | .illegal _ | .crcInit | .crcBit | .crcByte _ => false

/-- The instructions that write `active` or `period` (R10). -/
def Instr.writesTimers : Instr → Bool
  | .flash0 _ _ | .flash1 _ _ | .flash2 _ _ | .flash3 _ _ | .reset _ _ => true
  | .rdCoils _ _ | .rdInputs _ _ | .rdHold _ _ | .wrCoil _ _ | .wrCoils _ _ _ _ | .setAddr _ _ => false
  | .setBaud _ _ | .wrRegsOther _ _ _ | .illegal _ | .tick | .crcInit | .crcBit | .crcByte _ => false

/-- The instructions that write `cnt` (R10). -/
def Instr.writesCounts (i : Instr) : Bool := i.writesTimers || i == .tick

/-- The instructions that write `addr` (R10). -/
def Instr.writesAddr : Instr → Bool
  | .setAddr _ _ | .reset _ _ => true
  | .rdCoils _ _ | .rdInputs _ _ | .rdHold _ _ | .wrCoil _ _ | .wrCoils _ _ _ _ | .setBaud _ _ => false
  | .flash0 _ _ | .flash1 _ _ | .flash2 _ _ | .flash3 _ _ | .wrRegsOther _ _ _ | .illegal _ => false
  | .tick | .crcInit | .crcBit | .crcByte _ => false

/-- The instructions that write `baud_code` (R10). -/
def Instr.writesBaud : Instr → Bool
  | .setBaud _ _ | .reset _ _ => true
  | .rdCoils _ _ | .rdInputs _ _ | .rdHold _ _ | .wrCoil _ _ | .wrCoils _ _ _ _ | .setAddr _ _ => false
  | .flash0 _ _ | .flash1 _ _ | .flash2 _ _ | .flash3 _ _ | .wrRegsOther _ _ _ | .illegal _ => false
  | .tick | .crcInit | .crcBit | .crcByte _ => false

end Sys2Proof

namespace Sys2Proof.Machine

/-! ## Invariants -/

/-- The invariant of one timer slot (R18): inactive and cleared, or `1 <= cnt <= period`. -/
abbrev Relay.Inv (r : Relay) : Prop :=
  (r.active = false → r.period = 0#16 ∧ r.cnt = 0#16) ∧
  (r.active = true → 1 ≤ r.cnt.toNat ∧ r.cnt.toNat ≤ r.period.toNat)

/-- The parameters are legal (R5), the bank has N_COILS relays (R10), every timer slot is sound (R18), the
address is legal (R14). -/
abbrev State.Sound (s : State) : Prop :=
  s.cfg.wf ∧ s.relays.length = s.cfg.nCoils ∧ (∀ r ∈ s.relays, r.Inv) ∧ addrLegal s.addr = true

/-- The invariant between steps: sound, and nothing of a request is left over (R19). -/
abbrev State.Inv (s : State) : Prop := s.Sound ∧ s.hdr = []

/-! ## A request served -/

/-- The state after a request that emitted `evs` and was answered with the PDU `rsp` (R90); nothing else of
the state differs. -/
def State.served (s : State) (evs : List OutEvent) (rsp : List Byte) : State :=
  { s with out := s.out ++ evs ++ s.responseEvents rsp, hdr := [] }

/-- `FLASH k` (R62) for the four relays that have flash registers. -/
def flashInstr (k : Fin 4) (mode delay : U16) : Instr :=
  match k with
  | 0 => .flash0 mode delay
  | 1 => .flash1 mode delay
  | 2 => .flash2 mode delay
  | 3 => .flash3 mode delay

/-- The exception table of R152: which exception a request raises under these parameters, if any. -/
def protocolException (cfg : Config) : Instr → Option ExcCode
  | .rdCoils start quantity =>
    if 1 ≤ quantity.toNat ∧ start.toNat + quantity.toNat ≤ cfg.nCoils then none else some .illegalAddress
  | .rdInputs start quantity =>
    if 1 ≤ quantity.toNat ∧ start.toNat + quantity.toNat ≤ cfg.nInputs then none else some .illegalAddress
  | .rdHold start quantity =>
    if start.toNat = 0 ∧ quantity.toNat = 1 then none else some .illegalAddress
  | .wrCoil address value =>
    if cfg.nCoils ≤ address.toNat then some .illegalAddress
    else if value.toNat = 0xFF00 ∨ value.toNat = 0x0000 then none else some .illegalValue
  | .wrCoils start quantity byteCount d0 =>
    if d0.isSome ∧ start.toNat = 0 ∧ quantity.toNat = cfg.nCoils ∧ byteCount = some 1#8 then none
    else some .illegalAddress
  | .setAddr _ _ | .setBaud _ _ => none
  | .flash0 _ _ => if cfg.nCoils ≤ 0 then some .illegalAddress else none
  | .flash1 _ _ => if cfg.nCoils ≤ 1 then some .illegalAddress else none
  | .flash2 _ _ => if cfg.nCoils ≤ 2 then some .illegalAddress else none
  | .flash3 _ _ => if cfg.nCoils ≤ 3 then some .illegalAddress else none
  | .wrRegsOther _ _ _ => some .illegalAddress
  | .illegal _ => some .illegalFunction
  | .tick | .reset _ _ | .crcInit | .crcBit | .crcByte _ => none

/-! ## Events -/

/-- Whether the event is a response frame. -/
def OutEvent.isFrameOut : OutEvent → Bool
  | .frameOut _ => true
  | .setRelay _ _ | .readInput _ _ | .persistU8 _ _ | .persistU32 _ _ => false

/-- The position of the relays after an output event, from their position before it: `SetRelay` moves one (R161). -/
def OutEvent.drive (relays : List Bool) : OutEvent → List Bool
  | .setRelay c v => relays.set c v
  | .frameOut _ | .readInput _ _ | .persistU8 _ _ | .persistU32 _ _ => relays

/-- Whether the relay or input number of the event exists (R6, R161). -/
def OutEvent.inRange (cfg : Config) : OutEvent → Bool
  | .setRelay c _ => decide (c < cfg.nCoils)
  | .readInput i _ => decide (i < cfg.nInputs)
  | .frameOut _ | .persistU8 _ _ | .persistU32 _ _ => true

/-! ## Runs -/

/-- Instructions executed one after the other, stopping at the first that does not go on. -/
def execAll : List Instr → State → Host.Outcome State Fault Refusal
  | [], s => .next s
  | i :: is, s =>
    match exec i s with
    | .next t => execAll is t
    | .fault r => .fault r
    | .refused r => .refused r

end Sys2Proof.Machine
end

