-- ==== Sys2Proof/Certificates/Slice0/Obligations.lean ====
section
/-! DEFINITION. The statements for the provers. A request served is written `s.served evs rsp`: the events
`evs` and then the response are appended to the outputs, the kept header is cleared, and every other field of
the state is as it was. So a conclusion `exec i s = .next (… .served …)` is the result, the completion and
the whole frame of the instruction at once. -/

open Sys2Proof Sys2Proof.Machine

/-! ## Encoding -/

/-- R54 to R58: for every well-formed request, the decoder reads its encoding back, every operand at every value.
Rests on the spec's own choices D4, D10 (log 19). -/
def Obligations.DecodeEncodeRequest : Prop :=
  ∀ i : Instr, i.wf = true → i.isRequest = true → ∃ pdu, encode i = some pdu ∧ decode pdu = .ok i

/-- R54, R56: the decoder reads every PDU of five bytes or more, as a well-formed request with the PDU's own
function byte, and rejects every shorter one.
Rests on the spec's own choices D10 (log 19). -/
def Obligations.DecodeCoversEveryPdu : Prop :=
  ∀ pdu : List Byte,
    (pdu.length < 5 → decode pdu = .error .pduTooShort) ∧
    (5 ≤ pdu.length →
      ∃ i, decode pdu = .ok i ∧ i.wf = true ∧ i.isRequest = true ∧ i.functionByte = pdu.head?)

/-- R63: the decoder gives a PDU the instruction of the first row of the machine-readable table that takes it.
Rests on the spec's own choices D10 (log 19). -/
def Obligations.DecodeAgreesWithOpcodeTable : Prop :=
  ∀ (pdu : List Byte) (i : Instr), decode pdu = .ok i →
    (opcodeRows.find? fun r => r.takes pdu).map OpcodeRow.mnemonic = some i.mnemonic

/-- R54, D9: what the decoder reads is a prefix of the PDU, and the bytes after it are dropped (ILLEGAL looks
at the function byte only).
Rests on the spec's own choices D9 (log 19). -/
def Obligations.DecodedRequestIsPrefixOfPdu : Prop :=
  ∀ (pdu : List Byte) (i : Instr), decode pdu = .ok i →
    (∃ function, i = .illegal function) ∨ ∃ e surplus, encode i = some e ∧ pdu = e ++ surplus

/-- One word of each row of the table, written out byte by byte from R54 and R57.
Rests on the spec's own choices D4, D10, D15 (log 19). -/
def Obligations.DecodeWrittenWords : Prop :=
  decode [0x01#8, 0x00#8, 0x01#8, 0x00#8, 0x03#8] = .ok (.rdCoils 1#16 3#16) ∧
  decode [0x02#8, 0x01#8, 0x02#8, 0x03#8, 0x04#8] = .ok (.rdInputs 0x0102#16 0x0304#16) ∧
  decode [0x03#8, 0x03#8, 0xE9#8, 0x00#8, 0x01#8] = .ok (.rdHold 0x03E9#16 1#16) ∧
  decode [0x05#8, 0x00#8, 0x02#8, 0xFF#8, 0x00#8] = .ok (.wrCoil 2#16 0xFF00#16) ∧
  decode [0x0F#8, 0x00#8, 0x00#8, 0x00#8, 0x04#8, 0x01#8, 0x0A#8]
    = .ok (.wrCoils 0#16 4#16 (some 1#8) (some 0x0A#8)) ∧
  decode [0x10#8, 0x00#8, 0x00#8, 0x00#8, 0x01#8, 0x02#8, 0x12#8, 0xF7#8] = .ok (.setAddr 0x12#8 0xF7#8) ∧
  decode [0x10#8, 0x03#8, 0xE9#8, 0x00#8, 0x01#8, 0x02#8, 0x00#8, 0x04#8] = .ok (.setBaud 0x00#8 0x04#8) ∧
  decode [0x10#8, 0x00#8, 0x03#8, 0x00#8, 0x02#8, 0x04#8, 0x00#8, 0x01#8, 0x00#8, 0x05#8]
    = .ok (.flash0 1#16 5#16) ∧
  decode [0x10#8, 0x00#8, 0x08#8, 0x00#8, 0x02#8, 0x04#8, 0x00#8, 0x00#8, 0x00#8, 0x01#8]
    = .ok (.flash1 0#16 1#16) ∧
  decode [0x10#8, 0x00#8, 0x0D#8, 0x00#8, 0x02#8, 0x04#8, 0x00#8, 0x01#8, 0x12#8, 0x34#8]
    = .ok (.flash2 1#16 0x1234#16) ∧
  decode [0x10#8, 0x00#8, 0x12#8, 0x00#8, 0x02#8, 0x04#8, 0x00#8, 0x02#8, 0xFF#8, 0xFF#8]
    = .ok (.flash3 2#16 0xFFFF#16) ∧
  decode [0x10#8, 0x00#8, 0x00#8, 0x00#8, 0x01#8, 0x02#8, 0x05#8]
    = .ok (.wrRegsOther 0#16 1#16 [0x02#8, 0x05#8]) ∧
  decode [0x99#8, 0x00#8, 0x00#8, 0x00#8, 0x00#8] = .ok (.illegal 0x99#8)

/-! ## The CRC sub-block -/

/-- R70: CRC.INIT sets the accumulator to 0xFFFF, whatever it held; nothing else changes. -/
def Obligations.CrcInitSetsAccumulator : Prop :=
  ∀ s : State, exec .crcInit s = .next { s with acc := 0xFFFF#16 }

/-- R71: CRC.BIT is one round on the accumulator, with the corner cases and the example of the rule; bit 15 of
the result is the tested bit. -/
def Obligations.CrcBitIsOneRound : Prop :=
  (∀ s : State, exec .crcBit s =
    .next { s with acc := if s.acc.getLsbD 0 then (s.acc >>> 1) ^^^ 0xA001#16 else s.acc >>> 1 }) ∧
  (∀ acc : U16, (crcRound acc).getLsbD 15 = acc.getLsbD 0) ∧
  crcRound 0x0000#16 = 0x0000#16 ∧ crcRound 0x0001#16 = 0xA001#16 ∧ crcRound 0xFFFF#16 = 0xDFFE#16 ∧
  crcRound 0xFFFE#16 = 0x7FFF#16 ∧ crcRound 0x7FFF#16 = 0x9FFE#16

/-- R72, its pseudocode and its example: CRC.BYTE completes, and does what the exclusive-or of the byte into the
accumulator followed by eight CRC.BIT does.
The second value of the example is one the spec marks as derived in R72, from R71 and R72. -/
def Obligations.CrcByteIsXorThenEightRounds : Prop :=
  (∀ (b : Byte) (s : State), ∃ acc, exec (.crcByte b) s = .next { s with acc := acc } ∧
    execAll (List.replicate 8 .crcBit) { s with acc := s.acc ^^^ b.setWidth 16 } = .next { s with acc := acc }) ∧
  crcAbsorb 0xFFFF#16 0x01#8 = 0x807E#16 ∧ crcAbsorb 0x807E#16 0x05#8 = 0x23C0#16

/-- R72, its laws: CRC.BYTE is a bijection of the accumulator for each byte, and absorbing a byte is absorbing 0
after the exclusive-or.
Rests on an inference the spec marks as derived in R72. -/
def Obligations.CrcByteIsBijectiveInAccumulator : Prop :=
  (∀ b : Byte, Function.Bijective fun acc => crcAbsorb acc b) ∧
  (∀ (acc : U16) (b : Byte), crcAbsorb acc b = crcAbsorb (acc ^^^ b.setWidth 16) 0x00#8)

/-- R72's pseudocode from `acc = 0x0000` and from `acc = 0xC001`, with the byte 0: both accumulators are left as
they are. R72 remarks that the accumulator changes unless it is 0; its own algorithm keeps 0xC001 (log 17). -/
def Obligations.CrcByteZeroKeepsTwoAccumulators : Prop :=
  crcAbsorb 0x0000#16 0x00#8 = 0x0000#16 ∧ crcAbsorb 0xC001#16 0x00#8 = 0xC001#16

/-- R73: the empty sequence gives 0xFFFF, each further byte is absorbed in order, and the rule's examples.
The examples but those of the empty sequence and of the byte 0x00 are inferences the spec marks as derived in R73,
from R70 to R72. -/
def Obligations.CrcOfSequenceAbsorbsInOrder : Prop :=
  crc16 [] = 0xFFFF#16 ∧ (∀ (bs : List Byte) (b : Byte), crc16 (bs ++ [b]) = crcAbsorb (crc16 bs) b) ∧
  crc16 [0x00#8] = 0x40BF#16 ∧ crc16 [0x01#8] = 0x807E#16 ∧ crc16 [0xFF#8] = 0x00FF#16 ∧
  crc16 [0x31#8, 0x32#8, 0x33#8, 0x34#8, 0x35#8, 0x36#8, 0x37#8, 0x38#8, 0x39#8] = 0x4B37#16 ∧
  crc16 [0x01#8, 0x05#8, 0x00#8, 0x00#8, 0xFF#8, 0x00#8] = 0x3A8C#16

/-- R73, R77: CRC.INIT and then one CRC.BYTE for each byte in wire order leave `crc16` of the bytes in the
accumulator, and change nothing else.
Rests on the spec's own choices D36 (log 19). -/
def Obligations.CrcMicroOperationsComputeCrc16 : Prop :=
  ∀ (bs : List Byte) (s : State), execAll (.crcInit :: bs.map .crcByte) s = .next { s with acc := crc16 bs }

/-- R74, R34: the checksum is appended low byte first, with the corner case and the example of the rule. -/
def Obligations.CrcAppendsLowByteFirst : Prop :=
  (∀ bs : List Byte, crcAppend bs =
    bs ++ [BitVec.ofNat 8 ((crc16 bs).toNat % 256), BitVec.ofNat 8 ((crc16 bs).toNat / 256)]) ∧
  crcAppend [0x00#8, 0x03#8, 0x02#8, 0x00#8, 0x01#8] =
    [0x00#8, 0x03#8, 0x02#8, 0x00#8, 0x01#8, 0x44#8, 0x44#8] ∧
  crcAppend [0x01#8, 0x05#8, 0x00#8, 0x00#8, 0xFF#8, 0x00#8] =
    [0x01#8, 0x05#8, 0x00#8, 0x00#8, 0xFF#8, 0x00#8, 0x8C#8, 0x3A#8]

/-- R75: a frame of two bytes or more is verified by comparing the checksum of all but its last two bytes with
these two, low byte first; swapped bytes fail unless they are equal; the rule's corner cases and examples. -/
def Obligations.CrcCheckComparesTrailingBytes : Prop :=
  (∀ (bs : List Byte) (lo hi : Byte),
    crcOk (bs ++ [lo, hi]) = decide ((crc16 bs).toNat = lo.toNat + 256 * hi.toNat)) ∧
  (∀ (bs : List Byte) (lo hi : Byte), crcOk (bs ++ [lo, hi]) = true → lo ≠ hi → crcOk (bs ++ [hi, lo]) = false) ∧
  crcOk (List.replicate 8 0x00#8) = false ∧ crc16 (List.replicate 6 0x00#8) = 0x1B00#16 ∧
  crcOk [0x01#8, 0x05#8, 0x00#8, 0x00#8, 0xFF#8, 0x00#8, 0x8C#8, 0x3A#8] = true ∧
  crcOk [0x01#8, 0x05#8, 0x00#8, 0x00#8, 0xFF#8, 0x00#8, 0x3A#8, 0x8C#8] = false

/-- R76, first law: appending the checksum and verifying succeeds, for every byte sequence.
Rests on an inference the spec marks as derived in R76. -/
def Obligations.CrcRoundTripSucceeds : Prop :=
  ∀ bs : List Byte, crcOk (crcAppend bs) = true

/-- R76, second law: flipping any one bit of a frame with its checksum, in the message or in the two checksum
bytes, always fails verification. -/
def Obligations.CrcDetectsEverySingleBitError : Prop :=
  ∀ (bs : List Byte) (j k : Nat), j < bs.length + 2 → k < 8 →
    crcOk ((crcAppend bs).modify j fun b => b ^^^ (1#8 <<< k)) = false

/-- R76, third law: a frame verifies if and only if the checksum over the whole of it is zero.
Rests on an inference the spec marks as derived in R76. -/
def Obligations.CrcResidueIsZero : Prop :=
  ∀ f : List Byte, 2 ≤ f.length → (crcOk f = true ↔ crc16 f = 0x0000#16)

/-- R76, fourth law: CRC.BYTE is eight bit-serial steps, the bits of the byte least significant first.
Rests on an inference the spec marks as derived in R76. -/
def Obligations.CrcBitSerialForm : Prop :=
  ∀ (acc : U16) (b : Byte), crcAbsorb acc b =
    (List.range 8).foldl
      (fun (a : U16) i => if xor (a.getLsbD 0) (b.getLsbD i) then (a >>> 1) ^^^ 0xA001#16 else a >>> 1) acc

/-! ## Frames -/

/-- R81, R88: an RTU frame that fails a check is dropped, with the state as it was but for the frame taken; one
that passes all three runs the instruction its bytes 1 .. n-3 decode to, with its unit id kept. The unit id is
compared for plain equality, whatever `addr` is. -/
def Obligations.RtuFrameIsServedOrDropped : Prop :=
  ∀ (s : State) (f : List Byte) (rest : List Stimulus),
    s.cfg.transport = .rtu → s.started = true → f.length ≤ s.cfg.frameMax →
    s.pending = .single (.frameIn f) :: rest →
    ((f.length < 8 ∨ crcOk f = false ∨ (f.head? ≠ some s.addr ∧ f.head? ≠ some 0x00#8)) →
      step s = .next { s with pending := rest }) ∧
    (8 ≤ f.length → crcOk f = true → (f.head? = some s.addr ∨ f.head? = some 0x00#8) →
      ∃ i pdu, f = f.take 1 ++ pdu ++ f.drop (f.length - 2) ∧ pdu.length = f.length - 3 ∧ decode pdu = .ok i ∧
        step s = exec i { s with pending := rest, hdr := f.take 1 })

/-- R82, R88: a TCP frame shorter than 12 bytes is dropped; every other runs the instruction its bytes from 7 on
decode to, with its first seven bytes kept. Neither the unit id nor the protocol id nor the length field is
looked at.
Rests on the spec's own choices D8 (log 19). -/
def Obligations.TcpFrameIsServedOrDropped : Prop :=
  ∀ (s : State) (f : List Byte) (rest : List Stimulus),
    s.cfg.transport = .tcp → s.started = true → f.length ≤ s.cfg.frameMax →
    s.pending = .single (.frameIn f) :: rest →
    (f.length < 12 → step s = .next { s with pending := rest }) ∧
    (12 ≤ f.length →
      ∃ i, decode (f.drop 7) = .ok i ∧ 5 ≤ (f.drop 7).length ∧
        step s = exec i { s with pending := rest, hdr := f.take 7 })

/-- R51, R52, R53: a PDU put into an envelope is what the parse of that transport takes out again.
Rests on the spec's own choices D8 (log 19). -/
def Obligations.ParseRecoversEnvelopedPdu : Prop :=
  (∀ (addr unitId : Byte) (pdu : List Byte), 5 ≤ pdu.length → unitId = addr ∨ unitId = 0x00#8 →
    parseRtu addr (rtuFrame unitId pdu) = .ok ([unitId], pdu)) ∧
  (∀ (transactionId protocolId : U16) (unitId : Byte) (pdu : List Byte), 5 ≤ pdu.length →
    ∃ hdr, parseTcp (tcpFrame transactionId protocolId unitId pdu) = .ok (hdr, pdu) ∧ hdr.length = 7 ∧
      hdr.getLast? = some unitId)

/-- R85: an RTU response is the request's unit id, the response PDU, and a checksum computed afresh that verifies.
Rests on the spec's own choices D7 (log 19). -/
def Obligations.RtuResponseIsCheckedFrame : Prop :=
  ∀ (unitId : Byte) (rsp : List Byte),
    (serialiseRtu [unitId] rsp).length = rsp.length + 3 ∧
    (serialiseRtu [unitId] rsp).take (rsp.length + 1) = unitId :: rsp ∧
    crcOk (serialiseRtu [unitId] rsp) = true

/-- R86: a TCP response is the request's header with only the length rewritten, to the number of bytes after the
field, and the response PDU; its high byte is 0 for every response the block makes; the rule's example.
The order of the length field, high byte first, rests on the spec's own choice D4 (log 19); that byte 4 is 0x00 is
an inference the spec marks as derived in R86, from R59. -/
def Obligations.TcpResponseRewritesLength : Prop :=
  (∀ (b0 b1 b2 b3 b4 b5 b6 : Byte) (rsp : List Byte), rsp.length < 65535 →
    serialiseTcp [b0, b1, b2, b3, b4, b5, b6] rsp =
      [b0, b1, b2, b3, BitVec.ofNat 8 ((rsp.length + 1) / 256), BitVec.ofNat 8 ((rsp.length + 1) % 256), b6] ++ rsp) ∧
  (∀ (b0 b1 b2 b3 b4 b5 b6 : Byte) (rsp : List Byte), rsp.length ≤ 5 →
    (serialiseTcp [b0, b1, b2, b3, b4, b5, b6] rsp)[4]? = some 0x00#8) ∧
  serialiseTcp [0x12#8, 0x34#8, 0x00#8, 0x00#8, 0x00#8, 0x06#8, 0x01#8] [0x01#8, 0x01#8, 0x00#8] =
    [0x12#8, 0x34#8, 0x00#8, 0x00#8, 0x00#8, 0x04#8, 0x01#8, 0x01#8, 0x01#8, 0x00#8]

/-- R91, D6: a response is one frame, also to a broadcast; only where BCAST_REPLY is false is the response to an
RTU request with unit id 0x00 left out.
Rests on the spec's own choices D6 (log 19). -/
def Obligations.ResponseOmittedOnlyForMutedBroadcast : Prop :=
  ∀ (s : State) (rsp : List Byte),
    (s.cfg.bcastReply = true ∨ s.cfg.transport = .tcp ∨ s.hdr.head? ≠ some 0x00#8 →
      s.responseEvents rsp = [.frameOut (serialise s.cfg.transport s.hdr rsp)]) ∧
    (s.cfg.bcastReply = false → s.cfg.transport = .rtu → s.hdr.head? = some 0x00#8 → s.responseEvents rsp = [])

/-- R91: the header of a request, broadcast or not, has no effect but on the response frame: two runs of a
request that differ in the header only differ in the last output only, and answer with the same PDU.
Rests on the spec's own choices D6 (log 19). -/
def Obligations.HeaderAffectsResponseOnly : Prop :=
  ∀ (i : Instr) (s : State) (hdr1 hdr2 : List Byte), i.isRequest = true →
    ∃ (u : State) (evs : List OutEvent) (rsp : List Byte), u.out = s.out ++ evs ∧
      exec i { s with hdr := hdr1 } =
        .next { u with out := u.out ++ { s with hdr := hdr1 }.responseEvents rsp, hdr := [] } ∧
      exec i { s with hdr := hdr2 } =
        .next { u with out := u.out ++ { s with hdr := hdr2 }.responseEvents rsp, hdr := [] }

/-! ## The step -/

/-- R6, R80: where the parse hands a PDU on that decodes to `i`, the step is `exec i`, with the frame taken from
what is presented and its header kept.
Rests on the model's choice, logs 3 and 8 for the fields pending and hdr. -/
def Obligations.StepRunsDecodedInstruction : Prop :=
  ∀ (s : State) (f hdr pdu : List Byte) (rest : List Stimulus) (i : Instr),
    s.pending = .single (.frameIn f) :: rest → s.started = true → f.length ≤ s.cfg.frameMax →
    s.parse f = .ok (hdr, pdu) → decode pdu = .ok i →
    step s = exec i { s with pending := rest, hdr := hdr }

/-- R137, R180, R182: a strobe runs TICK, once the block has been reset; a `Reset` runs RESET at any time.
Rests on the spec's own choices D2, D35, and log 3 for the field pending (D rows: log 19). -/
def Obligations.StepRunsStrobeAndReset : Prop :=
  (∀ (s : State) (rest : List Stimulus), s.pending = .single .timeBase :: rest → s.started = true →
    step s = exec .tick { s with pending := rest }) ∧
  (∀ (s : State) (rest : List Stimulus) (a : Option Byte) (b : Option U32),
    s.pending = .single (.reset a b) :: rest → step s = exec (.reset a b) { s with pending := rest })

/-- R166: between events the block is idle and holds its state.
Rests on the model's choice, log 3: a model step with nothing presented. -/
def Obligations.IdleStepHoldsState : Prop :=
  ∀ s : State, s.pending = [] → step s = .next s

/-- R43: a frame and a strobe presented at the same moment are served one after the other, in one order or the
other.
Rests on the spec's own choices D3; the order is a free value, log 6 (D rows: log 19). -/
def Obligations.FrameAndStrobeServedInEitherOrder : Prop :=
  ∀ (s : State) (f : List Byte) (rest : List Stimulus), s.pending = .together f :: rest →
    step s = step { s with
      pending := .single (.frameIn f) :: .single .timeBase :: rest, ties := s.ties + 1 } ∨
    step s = step { s with
      pending := .single .timeBase :: .single (.frameIn f) :: rest, ties := s.ties + 1 }

/-- R50, R150, R182: no step faults; a step is refused only where a frame or a strobe is presented before the
first `Reset` or a frame is longer than FRAME_MAX; and every other step goes on.
Rests on the spec's own choices D9, D35; logs 9 and 10 (D rows: log 19). -/
def Obligations.StepRefusesOnlyAtTheInterface : Prop :=
  (∀ (s : State) (r : Fault), step s ≠ .fault r) ∧
  (∀ (s : State) (r : Refusal), step s = .refused r →
    (r = .beforeFirstReset ∧ s.started = false) ∨
    (r = .frameTooLong ∧ ∃ f rest, s.cfg.frameMax < f.length ∧
      (s.pending = .single (.frameIn f) :: rest ∨ s.pending = .together f :: rest))) ∧
  (∀ s : State, s.started = true →
    (∀ f rest, s.pending = .single (.frameIn f) :: rest ∨ s.pending = .together f :: rest →
      f.length ≤ s.cfg.frameMax) →
    ∃ t, step s = .next t) ∧
  (∀ (s : State) (rest : List Stimulus) (f : List Byte), s.started = false →
    s.pending = .single (.frameIn f) :: rest ∨ s.pending = .single .timeBase :: rest →
    step s = .refused .beforeFirstReset) ∧
  (∀ (s : State) (rest : List Stimulus) (f : List Byte), s.started = true → s.cfg.frameMax < f.length →
    s.pending = .single (.frameIn f) :: rest → step s = .refused .frameTooLong)

/-! ## Results of the requests -/

/-- R100, R103, R36: RDCOILS of a range in the bank answers one mask byte whose bit `i` is the coil at
`start + i`, lowest address first, bits above the last item 0; nothing else changes.
Rests on the spec's own choices D5, D11 (log 19). -/
def Obligations.RdCoilsAnswersMaskOfCoils : Prop :=
  ∀ (s : State) (start quantity : U16),
    1 ≤ quantity.toNat → start.toNat + quantity.toNat ≤ s.cfg.nCoils →
    ∃ mask : Byte, exec (.rdCoils start quantity) s = .next (s.served [] [0x01#8, 0x01#8, mask]) ∧
      ∀ i, i < 8 → mask.getLsbD i = (decide (i < quantity.toNat) && s.coilAt (start.toNat + i))

/-- R101, R32: RDINPUTS of a range in the bank makes exactly one query for each input, ascending, records each
with its answer, and answers the mask of the answers, whatever the environment answers; nothing else changes.
Rests on the spec's own choices D5, D11, D29; the answers are free values, log 5 (D rows: log 19). -/
def Obligations.RdInputsQueriesInOrderAndAnswersMask : Prop :=
  ∀ (s : State) (start quantity : U16),
    1 ≤ quantity.toNat → start.toNat + quantity.toNat ≤ s.cfg.nInputs →
    ∃ mask : Byte,
      exec (.rdInputs start quantity) s =
        .next ({ s with answers := s.answers.drop quantity.toNat, queries := s.queries + quantity.toNat }.served
          ((List.range quantity.toNat).map fun j => .readInput (start.toNat + j) (s.answer j))
          [0x02#8, 0x01#8, mask]) ∧
      ∀ i, i < 8 → mask.getLsbD i = (decide (i < quantity.toNat) && s.answer i)

/-- R102: RDHOLD (0, 1) answers the device address, zero-extended; every other start and quantity is exception
0x02; no state is written. The rule's frames: an unconfigured device answers 0x00FF, the worked examples.
Rests on the spec's own choices D12 (log 19). -/
def Obligations.RdHoldAnswersDeviceAddress : Prop :=
  (∀ s : State, exec (.rdHold 0x0000#16 1#16) s = .next (s.served [] [0x03#8, 0x02#8, 0x00#8, s.addr])) ∧
  (∀ (s : State) (start quantity : U16), ¬(start = 0x0000#16 ∧ quantity = 1#16) →
    exec (.rdHold start quantity) s = .next (s.served [] [0x83#8, 0x02#8])) ∧
  serialiseRtu [0x01#8] [0x03#8, 0x02#8, 0x00#8, 0x01#8] =
    [0x01#8, 0x03#8, 0x02#8, 0x00#8, 0x01#8, 0x79#8, 0x84#8] ∧
  serialiseRtu [0x00#8] [0x03#8, 0x02#8, 0x00#8, 0x01#8] =
    [0x00#8, 0x03#8, 0x02#8, 0x00#8, 0x01#8, 0x44#8, 0x44#8] ∧
  serialiseRtu [0x01#8] [0x83#8, 0x02#8] = [0x01#8, 0x83#8, 0x02#8, 0xC0#8, 0xF1#8]

/-- R110, R139: WRCOIL of an existing relay with 0xFF00 or 0x0000 writes that coil alone, leaves its timer slot
as it is, emits one SetRelay with the value and echoes address and value.
Rests on the spec's own choices D21 (log 19). -/
def Obligations.WrCoilWritesOneCoil : Prop :=
  ∀ (s : State) (address : U16) (on : Bool), address.toNat < s.cfg.nCoils →
    exec (.wrCoil address (if on then 0xFF00#16 else 0x0000#16)) s =
      .next ({ s with relays := s.relays.modify address.toNat fun r => { r with coil := on } }.served
        [.setRelay address.toNat on]
        [0x05#8, BitVec.ofNat 8 (address.toNat / 256), BitVec.ofNat 8 (address.toNat % 256),
          if on then 0xFF#8 else 0x00#8, 0x00#8])

/-- R111, R139: WRCOILS of the full bank writes every coil from its bit of the data byte, leaves every timer slot
as it is, emits one SetRelay for each relay in ascending order, changed or not, and echoes start and quantity.
Rests on the spec's own choices D5, D13, D14, D21 (log 19). -/
def Obligations.WrCoilsWritesFullBank : Prop :=
  ∀ (s : State) (quantity : U16) (d0 : Byte),
    s.relays.length = s.cfg.nCoils → quantity.toNat = s.cfg.nCoils →
    exec (.wrCoils 0x0000#16 quantity (some 1#8) (some d0)) s =
      .next ({ s with relays := s.relays.mapIdx fun c (r : Relay) => { r with coil := d0.getLsbD c } }.served
        ((List.range s.cfg.nCoils).map fun c => .setRelay c (d0.getLsbD c))
        [0x0F#8, 0x00#8, 0x00#8, BitVec.ofNat 8 (quantity.toNat / 256), BitVec.ofNat 8 (quantity.toNat % 256)])

/-- R121: SETADDR applies and persists the low data byte if it is 1 to 247 or 0xFF, and changes nothing
otherwise; the echo is the same in both cases. The high data byte is ignored.
Rests on the spec's own choices D15, D16 (log 19). -/
def Obligations.SetAddrAppliesLegalAddress : Prop :=
  ∀ (s : State) (d0 v : Byte),
    ((1 ≤ v.toNat ∧ v.toNat ≤ 247) ∨ v = 0xFF#8 →
      exec (.setAddr d0 v) s = .next ({ s with addr := v }.served [.persistU8 .keyAddr v]
        [0x10#8, 0x00#8, 0x00#8, 0x00#8, 0x01#8])) ∧
    (v.toNat = 0 ∨ (248 ≤ v.toNat ∧ v.toNat ≤ 254) →
      exec (.setAddr d0 v) s = .next (s.served [] [0x10#8, 0x00#8, 0x00#8, 0x00#8, 0x01#8]))

/-- R122, R15: SETBAUD applies the low data byte and persists its rate if it is 0x02, 0x03 or 0x04, and changes
nothing otherwise; the echo is the same in both cases. The high data byte is ignored.
Rests on the spec's own choices D15, D16, D37 (log 19). -/
def Obligations.SetBaudAppliesRecognisedCode : Prop :=
  ∀ (s : State) (d0 v : Byte),
    exec (.setBaud d0 0x02#8) s = .next ({ s with baudCode := .c02 }.served [.persistU32 .keyBaud 4800#32]
      [0x10#8, 0x03#8, 0xE9#8, 0x00#8, 0x01#8]) ∧
    exec (.setBaud d0 0x03#8) s = .next ({ s with baudCode := .c03 }.served [.persistU32 .keyBaud 9600#32]
      [0x10#8, 0x03#8, 0xE9#8, 0x00#8, 0x01#8]) ∧
    exec (.setBaud d0 0x04#8) s = .next ({ s with baudCode := .c04 }.served [.persistU32 .keyBaud 19200#32]
      [0x10#8, 0x03#8, 0xE9#8, 0x00#8, 0x01#8]) ∧
    (v ≠ 0x02#8 → v ≠ 0x03#8 → v ≠ 0x04#8 →
      exec (.setBaud d0 v) s = .next (s.served [] [0x10#8, 0x03#8, 0xE9#8, 0x00#8, 0x01#8]))

/-- R15: the codes and the rates determine each other.
Rests on the spec's own choices D37 (log 19). -/
def Obligations.BaudCodesAndRatesCorrespond : Prop :=
  baudRate .c02 = 4800#32 ∧ baudRate .c03 = 9600#32 ∧ baudRate .c04 = 19200#32 ∧
  (∀ c : BaudCode, baudCodeOf (baudRate c) = some c ∧ baudCodeOfByte (baudCodeByte c) = some c) ∧
  (∀ (rate : U32) (c : BaudCode), baudCodeOf rate = some c → baudRate c = rate) ∧
  (∀ (v : Byte) (c : BaudCode), baudCodeOfByte v = some c → baudCodeByte c = v)

/-- R123, R136: FLASH of an existing relay leaves its slot as the command says, whatever it held: the coil ON for
the modes 1 and 3 only, Static for a zero delay, else a timer at the start of its period; one SetRelay; the
echo. FLASH of a relay the bank does not have is exception 0x02.
Rests on the spec's own choices D17, D18, D19, D22 (log 19). -/
def Obligations.FlashSetsRelayAndTimer : Prop :=
  ∀ (s : State) (k : Fin 4) (mode delay : U16) (on : Bool), (on = true ↔ mode = 1#16 ∨ mode = 3#16) →
    (k.val < s.cfg.nCoils →
      exec (flashInstr k mode delay) s =
        .next ({ s with relays := s.relays.modify k.val fun _ =>
            if delay = 0#16 then { coil := on, active := false, period := 0#16, cnt := 0#16 }
            else { coil := on, active := true, period := delay, cnt := delay } }.served
          [.setRelay k.val on] [0x10#8, 0x00#8, BitVec.ofNat 8 (3 + 5 * k.val), 0x00#8, 0x02#8])) ∧
    (s.cfg.nCoils ≤ k.val → exec (flashInstr k mode delay) s = .next (s.served [] [0x90#8, 0x02#8]))

/-- R124: every function 0x10 request that no sub-command takes is WRREGS.OTHER, and that is always exception
0x02 with nothing written or emitted.
That a request with an absent byte count or data byte is one of these rests on the spec's own choice D10 (log 19). -/
def Obligations.WrRegsOtherIsAlwaysIllegalAddress : Prop :=
  (∀ (start quantity : U16) (rest : List Byte) (s : State),
    exec (.wrRegsOther start quantity rest) s = .next (s.served [] [0x90#8, 0x02#8])) ∧
  (∀ (start quantity : U16) (rest : List Byte), (∀ c ∈ subCommands, c.takes start quantity rest = false) →
    decodeFields 0x10#8 start quantity rest = .wrRegsOther start quantity rest)

/-- R89: every function byte but the six is ILLEGAL, whatever follows it, and is always exception 0x01 with the
function byte as received and bit 7 set; nothing is written; the rule's corner cases and example. -/
def Obligations.IllegalFunctionIsAnswered : Prop :=
  (∀ (function : Byte) (s : State),
    exec (.illegal function) s = .next (s.served [] [function ||| 0x80#8, 0x01#8])) ∧
  (∀ (function a1 a0 q1 q0 : Byte) (rest : List Byte), function ∉ implementedFunctions →
    decode (function :: a1 :: a0 :: q1 :: q0 :: rest) = .ok (.illegal function)) ∧
  (∀ function : Byte, 0x80 ≤ function.toNat → function ||| 0x80#8 = function) ∧
  0x00#8 ||| 0x80#8 = 0x80#8 ∧
  serialiseTcp [0x12#8, 0x38#8, 0x00#8, 0x00#8, 0x00#8, 0x06#8, 0x01#8] [0x99#8, 0x01#8] =
    [0x12#8, 0x38#8, 0x00#8, 0x00#8, 0x00#8, 0x03#8, 0x01#8, 0x99#8, 0x01#8]

/-! ## Requests as a whole -/

/-- R152, R156: a request raises exactly the exception the table gives it, and then the response is all it does;
a request the table gives none is answered with its own function byte, below 0x80.
Rests on the spec's own choices D10, D11, D18 (log 19). -/
def Obligations.ExceptionsAreTabulatedAndPrecise : Prop :=
  ∀ (i : Instr) (s : State) (function : Byte), i.functionByte = some function →
    (∀ code, protocolException s.cfg i = some code →
      exec i s = .next (s.served [] [function ||| 0x80#8, excCodeByte code])) ∧
    (protocolException s.cfg i = none → function.toNat < 0x80 ∧
      ∃ t evs rsp, exec i s = .next t ∧ t.out = s.out ++ evs ++ s.responseEvents (function :: rsp))

/-- R80, R90, R163: every request is answered by one response PDU of at most five bytes, after all its other
events, none of which is a response; the kept header is cleared.
Rests on the spec's own choices D6 for a response left out, log 8 for the header (D rows: log 19). -/
def Obligations.EveryRequestAnsweredOnceAndLast : Prop :=
  ∀ (i : Instr) (s : State), i.isRequest = true →
    ∃ t evs rsp, exec i s = .next t ∧ t.out = s.out ++ evs ++ s.responseEvents rsp ∧
      (∀ e ∈ evs, e.isFrameOut = false) ∧ 2 ≤ rsp.length ∧ rsp.length ≤ 5 ∧ t.hdr = []

/-- R59, R120: a write request that raises no exception echoes the first five bytes of its PDU; surplus bytes are
not echoed.
Rests on the spec's own choices D9, D13 (log 19). -/
def Obligations.WritesEchoFirstFiveBytes : Prop :=
  ∀ (i : Instr) (s : State) (pdu : List Byte), decode pdu = .ok i →
    i.writesCoils = true ∨ i.writesAddr = true ∨ i.writesBaud = true → protocolException s.cfg i = none →
    ∃ t evs, exec i s = .next t ∧ t.out = s.out ++ evs ++ s.responseEvents (pdu.take 5)

/-- R42 (a): a read of all coils after WRCOIL ON reports that coil's bit set and no other changed.
Rests on the spec's own choices D5 (log 19). -/
def Obligations.ReadAfterWriteReportsOneChange : Prop :=
  ∀ (s : State) (c quantity : U16), s.relays.length = s.cfg.nCoils → s.cfg.nCoils ≤ 8 →
    c.toNat < s.cfg.nCoils → quantity.toNat = s.cfg.nCoils →
    ∃ (t : State) (before after : Byte),
      exec (.rdCoils 0x0000#16 quantity) s = .next (s.served [] [0x01#8, 0x01#8, before]) ∧
      exec (.wrCoil c 0xFF00#16) s = .next t ∧
      exec (.rdCoils 0x0000#16 quantity) t = .next (t.served [] [0x01#8, 0x01#8, after]) ∧
      ∀ i, i < 8 → after.getLsbD i = (decide (i = c.toNat) || before.getLsbD i)

/-- R46, R184: after an accepted SETADDR the next RTU frame that is long enough and verifies is rejected for its
unit id exactly if that is neither the new address nor broadcast.
Rests on the spec's own choices D30 (log 19). -/
def Obligations.AddressChangeFiltersNextFrame : Prop :=
  ∀ (s : State) (d0 v : Byte), s.cfg.transport = .rtu → (1 ≤ v.toNat ∧ v.toNat ≤ 247) ∨ v = 0xFF#8 →
    ∃ t, exec (.setAddr d0 v) s = .next t ∧
      ∀ f : List Byte, 8 ≤ f.length → crcOk f = true →
        (t.parse f = .error .unitIdMismatch ↔ f.head? ≠ some v ∧ f.head? ≠ some 0x00#8)

/-! ## The time base and reset -/

/-- R137: TICK serves every relay in one step: one whose timer runs and has count 1 is inverted and reloaded, one
with another count counts down, one that is Static stays; the SetRelay events are those of the inverted relays
in ascending order, with the new value; nothing else changes and no frame is sent.
Rests on the spec's own choices D2, D22 (log 19). -/
def Obligations.TickServesEveryRelay : Prop :=
  ∀ s : State, ∃ rs : List Relay,
    exec .tick s = .next { s with
      relays := rs
      out := s.out ++ (List.range s.relays.length).flatMap fun c =>
        match s.relays[c]? with
        | some r => if r.active = true ∧ r.cnt = 1#16 then [OutEvent.setRelay c (!r.coil)] else []
        | none => [] } ∧
    rs.length = s.relays.length ∧
    ∀ (c : Nat) (r : Relay), s.relays[c]? = some r →
      rs[c]? = some
        (if r.active = true then
          if r.cnt = 1#16 then { r with coil := !r.coil, cnt := r.period } else { r with cnt := r.cnt - 1#16 }
        else r)

/-- R136, R137, R140: after FLASH with a nonzero delay `p`, `n` strobes have toggled the relay `n / p` times, at
every `p`-th strobe and at no other, and the count stands at `p - n % p`; after FLASH with delay 0 no strobe
changes it.
R140 is an inference the spec marks as derived, from R136 and R137. Rests also on its own choices D2, D22 (log 19). -/
def Obligations.FlashTogglesEveryPeriod : Prop :=
  ∀ (s : State) (k : Fin 4) (mode delay : U16) (n : Nat),
    s.relays.length = s.cfg.nCoils → k.val < s.cfg.nCoils →
    ∃ (t : State) (r : Relay), execAll (flashInstr k mode delay :: asmTicks n) s = .next t ∧ t.relays[k.val]? = some r ∧
      (delay ≠ 0#16 → r =
        { coil := xor (flashOn mode) (decide (n / delay.toNat % 2 = 1))
          active := true
          period := delay
          cnt := BitVec.ofNat 16 (delay.toNat - n % delay.toNat) }) ∧
      (delay = 0#16 → r = { coil := flashOn mode, active := false, period := 0#16, cnt := 0#16 })

/-- R138: a second flash command on the same relay leaves nothing of the first: the bank is as if only the second
had been given.
Rests on the spec's own choices D22 (log 19). -/
def Obligations.SecondFlashReplacesFirst : Prop :=
  ∀ (s : State) (k : Fin 4) (mode1 delay1 mode2 delay2 : U16),
    ∃ t u, execAll [flashInstr k mode1 delay1, flashInstr k mode2 delay2] s = .next t ∧
      exec (flashInstr k mode2 delay2) s = .next u ∧ t.relays = u.relays

/-- R180, R181, R22: RESET leaves every coil OFF and every timer inactive and cleared, installs the stored address
and rate where they are legal and the defaults otherwise, and emits nothing.
Rests on the spec's own choices D23, D24, D38 (log 19). -/
def Obligations.ResetInstallsStatedValues : Prop :=
  ∀ (s : State) (bootAddr : Option Byte) (bootBaud : Option U32), ∃ addr baudCode,
    exec (.reset bootAddr bootBaud) s = .next { s with
      relays := List.replicate s.cfg.nCoils { coil := false, active := false, period := 0#16, cnt := 0#16 }
      addr := addr
      baudCode := baudCode
      started := true } ∧
    (bootAddr = none → addr = 0xFF#8) ∧
    (∀ v, bootAddr = some v → (1 ≤ v.toNat ∧ v.toNat ≤ 247) ∨ v = 0xFF#8 → addr = v) ∧
    (∀ v, bootAddr = some v → ¬((1 ≤ v.toNat ∧ v.toNat ≤ 247) ∨ v = 0xFF#8) → addr = 0xFF#8) ∧
    (bootBaud = none → baudCode = s.cfg.baudDefault) ∧
    (bootBaud = some 4800#32 → baudCode = .c02) ∧
    (bootBaud = some 9600#32 → baudCode = .c03) ∧
    (bootBaud = some 19200#32 → baudCode = .c04) ∧
    (∀ r, bootBaud = some r → r ≠ 4800#32 → r ≠ 9600#32 → r ≠ 19200#32 → baudCode = s.cfg.baudDefault)

/-- The model's choice (logs 1 and 2): `State.reset` is what `Reset(none, none)` leaves of the block's own state,
from any state with the default RTU parameters. -/
def Obligations.ResetStateIsResetOfAbsentValues : Prop :=
  ∀ s : State, s.cfg = Config.rtuDefault →
    ∃ t, exec (.reset none none) s = .next t ∧ t.relays = State.reset.relays ∧ t.addr = State.reset.addr ∧
      t.baudCode = State.reset.baudCode ∧ t.started = State.reset.started ∧ t.cfg = State.reset.cfg

/-! ## Invariants and frames of the whole machine -/

/-- The invariant holds at `State.reset` (whose parameters and arguments are the model's choice, logs 1 and 2). -/
def Obligations.ResetStateMeetsInvariant : Prop := State.reset.Inv

/-- R14, R15, R18, R22: RESET makes the state sound from any state with legal parameters.
Rests on the spec's own choices D23, D24 (log 19). -/
def Obligations.ResetEventMakesStateSound : Prop :=
  ∀ (s : State) (bootAddr : Option Byte) (bootBaud : Option U32), s.cfg.wf →
    ∃ t, exec (.reset bootAddr bootBaud) s = .next t ∧ t.Sound

/-- R14, R18, R19: every step keeps the invariant: legal parameters, N_COILS relays, every timer slot inactive and
cleared or with `1 <= cnt <= period`, a legal address, and no header left over.
Rests on the spec's own choices D22, D24; log 8 for the header (D rows: log 19). -/
def Obligations.StepKeepsInvariant : Prop :=
  ∀ s t : State, s.Inv → step s = .next t → t.Inv

/-- R10, column "written by": each part of the state is written by the instructions named there and by no other;
the parameters are written by none (R182).
Rests on the spec's own choices D20, D21; logs 3, 5, 7 for the model's own fields (D rows: log 19). -/
def Obligations.EachRegisterHasItsWriters : Prop :=
  ∀ (i : Instr) (s : State), ∃ t, exec i s = .next t ∧
    t.cfg = s.cfg ∧ t.pending = s.pending ∧ t.ties = s.ties ∧
    (i.writesCoils = false → t.relays.map Relay.coil = s.relays.map Relay.coil) ∧
    (i.writesTimers = false →
      t.relays.map (fun r => (r.active, r.period)) = s.relays.map fun r => (r.active, r.period)) ∧
    (i.writesCounts = false → t.relays.map Relay.cnt = s.relays.map Relay.cnt) ∧
    (i.writesAddr = false → t.addr = s.addr) ∧
    (i.writesBaud = false → t.baudCode = s.baudCode) ∧
    (i.isRequest = true → t.acc = s.acc ∧ t.started = s.started) ∧
    ((∀ start quantity, i ≠ .rdInputs start quantity) → t.answers = s.answers ∧ t.queries = s.queries)

/-- R6, R161: the events an instruction emits name relays and inputs that exist. -/
def Obligations.EventsNameExistingRelaysAndInputs : Prop :=
  ∀ (i : Instr) (s : State), s.relays.length = s.cfg.nCoils →
    ∃ t evs, exec i s = .next t ∧ t.out = s.out ++ evs ∧ ∀ e ∈ evs, e.inRange s.cfg = true

/-- R42 (c), R163: a step sends at most one response frame, as its last output. -/
def Obligations.StepSendsAtMostOneFrameLast : Prop :=
  ∀ s t : State, step s = .next t →
    ∃ evs response, t.out = s.out ++ evs ++ response ∧ (∀ e ∈ evs, e.isFrameOut = false) ∧ response.length ≤ 1

/-- R11, R31, R161: the relays follow the coils. Replaying the SetRelay events of an instruction on the coils as they
were gives the coils as they are after it, for every instruction but RESET, which drives no relay (R180, D38).
Rests on the spec's own choices D38 for the exception of RESET (log 19). -/
def Obligations.RelaysFollowCoils : Prop :=
  ∀ (i : Instr) (s : State), (∀ a b, i ≠ .reset a b) →
    ∃ t evs, exec i s = .next t ∧ t.out = s.out ++ evs ∧
      t.relays.map Relay.coil = evs.foldl OutEvent.drive (s.relays.map Relay.coil)

/-- R72, its pseudocode: CRC.BYTE goes on from every state. It exclusive-ors the zero-extended byte into the
accumulator and then does eight rounds of R71; nothing else changes. -/
def Obligations.CrcByteCompletesWithAbsorbedByte : Prop :=
  ∀ (b : Byte) (s : State), exec (.crcByte b) s = .next { s with
    acc := (List.range 8).foldl (fun (a : U16) _ => if a.getLsbD 0 then (a >>> 1) ^^^ 0xA001#16 else a >>> 1)
      (s.acc ^^^ b.setWidth 16) }
end

