-- ==== Sys2Proof/Laws/Decode.lean ====
section
/-! SUPPORT. The arithmetic of the byte helpers (R7), and what they do to each other. -/

namespace Sys2Proof

theorem lo8_toNat (v : U16) : (lo8 v).toNat = v.toNat % 256 := by
  simp [lo8]

theorem hi8_toNat (v : U16) : (hi8 v).toNat = v.toNat / 256 := by
  have := v.isLt
  simp only [hi8, BitVec.extractLsb'_toNat, Nat.shiftRight_eq_div_pow]
  omega

theorem u16be_toNat (h l : Byte) : (u16be h l).toNat = h.toNat * 256 + l.toNat := by
  have := l.isLt
  rw [u16be, BitVec.toNat_append, ← Nat.shiftLeft_add_eq_or_of_lt this, Nat.shiftLeft_eq]

@[simp] theorem u16be_hi8_lo8 (v : U16) : u16be (hi8 v) (lo8 v) = v := by
  apply BitVec.eq_of_toNat_eq
  rw [u16be_toNat, hi8_toNat, lo8_toNat]
  omega

@[simp] theorem hi8_u16be (h l : Byte) : hi8 (u16be h l) = h := by
  apply BitVec.eq_of_toNat_eq
  have := l.isLt
  rw [hi8_toNat, u16be_toNat]
  omega

@[simp] theorem lo8_u16be (h l : Byte) : lo8 (u16be h l) = l := by
  apply BitVec.eq_of_toNat_eq
  have := l.isLt
  rw [lo8_toNat, u16be_toNat]
  omega

/-- The five leading bytes of a PDU are its function and its two fields (R54). -/
theorem pduHead_u16be (function a1 a0 q1 q0 : Byte) :
    pduHead function (u16be a1 a0) (u16be q1 q0) = [function, a1, a0, q1, q0] := by
  simp [pduHead]

end Sys2Proof
end

