-- ==== Sys2Proof/Laws/State.lean ====
section
/-! SUPPORT. One lemma for each field of State and each update of `Machine/Ops.lean`, true by unfolding the
update once, so that no later proof unfolds it again. The loops `writeCoils` and `readInputs` are in
`Laws/Ops.lean`. -/

namespace Sys2Proof.Machine

/-! ### emit -/

@[simp] theorem State.emit_relays (s : State) (e : OutEvent) : (s.emit e).relays = s.relays := rfl
@[simp] theorem State.emit_addr (s : State) (e : OutEvent) : (s.emit e).addr = s.addr := rfl
@[simp] theorem State.emit_baudCode (s : State) (e : OutEvent) : (s.emit e).baudCode = s.baudCode := rfl
@[simp] theorem State.emit_acc (s : State) (e : OutEvent) : (s.emit e).acc = s.acc := rfl
@[simp] theorem State.emit_hdr (s : State) (e : OutEvent) : (s.emit e).hdr = s.hdr := rfl
@[simp] theorem State.emit_cfg (s : State) (e : OutEvent) : (s.emit e).cfg = s.cfg := rfl
@[simp] theorem State.emit_started (s : State) (e : OutEvent) : (s.emit e).started = s.started := rfl
@[simp] theorem State.emit_pending (s : State) (e : OutEvent) : (s.emit e).pending = s.pending := rfl
@[simp] theorem State.emit_answers (s : State) (e : OutEvent) : (s.emit e).answers = s.answers := rfl
@[simp] theorem State.emit_queries (s : State) (e : OutEvent) : (s.emit e).queries = s.queries := rfl
@[simp] theorem State.emit_ties (s : State) (e : OutEvent) : (s.emit e).ties = s.ties := rfl
@[simp] theorem State.emit_out (s : State) (e : OutEvent) : (s.emit e).out = s.out ++ [e] := rfl

/-! ### modifyRelay -/

@[simp] theorem State.modifyRelay_relays (s : State) (c : Nat) (f : Relay → Relay) :
    (s.modifyRelay c f).relays = s.relays.modify c f := rfl

@[simp] theorem State.modifyRelay_addr (s : State) (c : Nat) (f : Relay → Relay) :
    (s.modifyRelay c f).addr = s.addr := rfl

@[simp] theorem State.modifyRelay_baudCode (s : State) (c : Nat) (f : Relay → Relay) :
    (s.modifyRelay c f).baudCode = s.baudCode := rfl

@[simp] theorem State.modifyRelay_acc (s : State) (c : Nat) (f : Relay → Relay) :
    (s.modifyRelay c f).acc = s.acc := rfl

@[simp] theorem State.modifyRelay_hdr (s : State) (c : Nat) (f : Relay → Relay) :
    (s.modifyRelay c f).hdr = s.hdr := rfl

@[simp] theorem State.modifyRelay_cfg (s : State) (c : Nat) (f : Relay → Relay) :
    (s.modifyRelay c f).cfg = s.cfg := rfl

@[simp] theorem State.modifyRelay_started (s : State) (c : Nat) (f : Relay → Relay) :
    (s.modifyRelay c f).started = s.started := rfl

@[simp] theorem State.modifyRelay_pending (s : State) (c : Nat) (f : Relay → Relay) :
    (s.modifyRelay c f).pending = s.pending := rfl

@[simp] theorem State.modifyRelay_answers (s : State) (c : Nat) (f : Relay → Relay) :
    (s.modifyRelay c f).answers = s.answers := rfl

@[simp] theorem State.modifyRelay_queries (s : State) (c : Nat) (f : Relay → Relay) :
    (s.modifyRelay c f).queries = s.queries := rfl

@[simp] theorem State.modifyRelay_ties (s : State) (c : Nat) (f : Relay → Relay) :
    (s.modifyRelay c f).ties = s.ties := rfl

@[simp] theorem State.modifyRelay_out (s : State) (c : Nat) (f : Relay → Relay) :
    (s.modifyRelay c f).out = s.out := rfl


/-! ### writeCoil -/

@[simp] theorem State.writeCoil_relays (s : State) (c : Nat) (v : Bool) :
    (s.writeCoil c v).relays = s.relays.modify c fun r => { r with coil := v } := rfl

@[simp] theorem State.writeCoil_addr (s : State) (c : Nat) (v : Bool) : (s.writeCoil c v).addr = s.addr := rfl
@[simp] theorem State.writeCoil_baudCode (s : State) (c : Nat) (v : Bool) :
    (s.writeCoil c v).baudCode = s.baudCode := rfl

@[simp] theorem State.writeCoil_acc (s : State) (c : Nat) (v : Bool) : (s.writeCoil c v).acc = s.acc := rfl
@[simp] theorem State.writeCoil_hdr (s : State) (c : Nat) (v : Bool) : (s.writeCoil c v).hdr = s.hdr := rfl
@[simp] theorem State.writeCoil_cfg (s : State) (c : Nat) (v : Bool) : (s.writeCoil c v).cfg = s.cfg := rfl
@[simp] theorem State.writeCoil_started (s : State) (c : Nat) (v : Bool) :
    (s.writeCoil c v).started = s.started := rfl

@[simp] theorem State.writeCoil_pending (s : State) (c : Nat) (v : Bool) :
    (s.writeCoil c v).pending = s.pending := rfl

@[simp] theorem State.writeCoil_answers (s : State) (c : Nat) (v : Bool) :
    (s.writeCoil c v).answers = s.answers := rfl

@[simp] theorem State.writeCoil_queries (s : State) (c : Nat) (v : Bool) :
    (s.writeCoil c v).queries = s.queries := rfl

@[simp] theorem State.writeCoil_ties (s : State) (c : Nat) (v : Bool) : (s.writeCoil c v).ties = s.ties := rfl
@[simp] theorem State.writeCoil_out (s : State) (c : Nat) (v : Bool) :
    (s.writeCoil c v).out = s.out ++ [.setRelay c v] := rfl


/-! ### respond -/

@[simp] theorem State.respond_relays (s : State) (rsp : List Byte) : (s.respond rsp).relays = s.relays := rfl
@[simp] theorem State.respond_addr (s : State) (rsp : List Byte) : (s.respond rsp).addr = s.addr := rfl
@[simp] theorem State.respond_baudCode (s : State) (rsp : List Byte) : (s.respond rsp).baudCode = s.baudCode := rfl
@[simp] theorem State.respond_acc (s : State) (rsp : List Byte) : (s.respond rsp).acc = s.acc := rfl
@[simp] theorem State.respond_hdr (s : State) (rsp : List Byte) : (s.respond rsp).hdr = [] := rfl
@[simp] theorem State.respond_cfg (s : State) (rsp : List Byte) : (s.respond rsp).cfg = s.cfg := rfl
@[simp] theorem State.respond_started (s : State) (rsp : List Byte) : (s.respond rsp).started = s.started := rfl
@[simp] theorem State.respond_pending (s : State) (rsp : List Byte) : (s.respond rsp).pending = s.pending := rfl
@[simp] theorem State.respond_answers (s : State) (rsp : List Byte) : (s.respond rsp).answers = s.answers := rfl
@[simp] theorem State.respond_queries (s : State) (rsp : List Byte) : (s.respond rsp).queries = s.queries := rfl
@[simp] theorem State.respond_ties (s : State) (rsp : List Byte) : (s.respond rsp).ties = s.ties := rfl
@[simp] theorem State.respond_out (s : State) (rsp : List Byte) :
    (s.respond rsp).out = s.out ++ s.responseEvents rsp := rfl


/-! ### raiseExc -/

@[simp] theorem State.raiseExc_relays (s : State) (function : Byte) (code : ExcCode) :
    (s.raiseExc function code).relays = s.relays := rfl

@[simp] theorem State.raiseExc_addr (s : State) (function : Byte) (code : ExcCode) :
    (s.raiseExc function code).addr = s.addr := rfl

@[simp] theorem State.raiseExc_baudCode (s : State) (function : Byte) (code : ExcCode) :
    (s.raiseExc function code).baudCode = s.baudCode := rfl

@[simp] theorem State.raiseExc_acc (s : State) (function : Byte) (code : ExcCode) :
    (s.raiseExc function code).acc = s.acc := rfl

@[simp] theorem State.raiseExc_hdr (s : State) (function : Byte) (code : ExcCode) :
    (s.raiseExc function code).hdr = [] := rfl

@[simp] theorem State.raiseExc_cfg (s : State) (function : Byte) (code : ExcCode) :
    (s.raiseExc function code).cfg = s.cfg := rfl

@[simp] theorem State.raiseExc_started (s : State) (function : Byte) (code : ExcCode) :
    (s.raiseExc function code).started = s.started := rfl

@[simp] theorem State.raiseExc_pending (s : State) (function : Byte) (code : ExcCode) :
    (s.raiseExc function code).pending = s.pending := rfl

@[simp] theorem State.raiseExc_answers (s : State) (function : Byte) (code : ExcCode) :
    (s.raiseExc function code).answers = s.answers := rfl

@[simp] theorem State.raiseExc_queries (s : State) (function : Byte) (code : ExcCode) :
    (s.raiseExc function code).queries = s.queries := rfl

@[simp] theorem State.raiseExc_ties (s : State) (function : Byte) (code : ExcCode) :
    (s.raiseExc function code).ties = s.ties := rfl

@[simp] theorem State.raiseExc_out (s : State) (function : Byte) (code : ExcCode) :
    (s.raiseExc function code).out = s.out ++ s.responseEvents (excPdu function code) := rfl


/-! ### persistAddr -/

@[simp] theorem State.persistAddr_relays (s : State) (v : Byte) : (s.persistAddr v).relays = s.relays := rfl
@[simp] theorem State.persistAddr_addr (s : State) (v : Byte) : (s.persistAddr v).addr = s.addr := rfl
@[simp] theorem State.persistAddr_baudCode (s : State) (v : Byte) : (s.persistAddr v).baudCode = s.baudCode := rfl
@[simp] theorem State.persistAddr_acc (s : State) (v : Byte) : (s.persistAddr v).acc = s.acc := rfl
@[simp] theorem State.persistAddr_hdr (s : State) (v : Byte) : (s.persistAddr v).hdr = s.hdr := rfl
@[simp] theorem State.persistAddr_cfg (s : State) (v : Byte) : (s.persistAddr v).cfg = s.cfg := rfl
@[simp] theorem State.persistAddr_started (s : State) (v : Byte) : (s.persistAddr v).started = s.started := rfl
@[simp] theorem State.persistAddr_pending (s : State) (v : Byte) : (s.persistAddr v).pending = s.pending := rfl
@[simp] theorem State.persistAddr_answers (s : State) (v : Byte) : (s.persistAddr v).answers = s.answers := rfl
@[simp] theorem State.persistAddr_queries (s : State) (v : Byte) : (s.persistAddr v).queries = s.queries := rfl
@[simp] theorem State.persistAddr_ties (s : State) (v : Byte) : (s.persistAddr v).ties = s.ties := rfl
@[simp] theorem State.persistAddr_out (s : State) (v : Byte) :
    (s.persistAddr v).out = s.out ++ [.persistU8 .keyAddr v] := rfl


/-! ### persistBaud -/

@[simp] theorem State.persistBaud_relays (s : State) (rate : U32) : (s.persistBaud rate).relays = s.relays := rfl
@[simp] theorem State.persistBaud_addr (s : State) (rate : U32) : (s.persistBaud rate).addr = s.addr := rfl
@[simp] theorem State.persistBaud_baudCode (s : State) (rate : U32) :
    (s.persistBaud rate).baudCode = s.baudCode := rfl

@[simp] theorem State.persistBaud_acc (s : State) (rate : U32) : (s.persistBaud rate).acc = s.acc := rfl
@[simp] theorem State.persistBaud_hdr (s : State) (rate : U32) : (s.persistBaud rate).hdr = s.hdr := rfl
@[simp] theorem State.persistBaud_cfg (s : State) (rate : U32) : (s.persistBaud rate).cfg = s.cfg := rfl
@[simp] theorem State.persistBaud_started (s : State) (rate : U32) : (s.persistBaud rate).started = s.started := rfl
@[simp] theorem State.persistBaud_pending (s : State) (rate : U32) : (s.persistBaud rate).pending = s.pending := rfl
@[simp] theorem State.persistBaud_answers (s : State) (rate : U32) : (s.persistBaud rate).answers = s.answers := rfl
@[simp] theorem State.persistBaud_queries (s : State) (rate : U32) : (s.persistBaud rate).queries = s.queries := rfl
@[simp] theorem State.persistBaud_ties (s : State) (rate : U32) : (s.persistBaud rate).ties = s.ties := rfl
@[simp] theorem State.persistBaud_out (s : State) (rate : U32) :
    (s.persistBaud rate).out = s.out ++ [.persistU32 .keyBaud rate] := rfl


/-! ### readInput, the state -/

@[simp] theorem State.readInput_relays (s : State) (i : Nat) : ((s.readInput i).2).relays = s.relays := rfl
@[simp] theorem State.readInput_addr (s : State) (i : Nat) : ((s.readInput i).2).addr = s.addr := rfl
@[simp] theorem State.readInput_baudCode (s : State) (i : Nat) : ((s.readInput i).2).baudCode = s.baudCode := rfl
@[simp] theorem State.readInput_acc (s : State) (i : Nat) : ((s.readInput i).2).acc = s.acc := rfl
@[simp] theorem State.readInput_hdr (s : State) (i : Nat) : ((s.readInput i).2).hdr = s.hdr := rfl
@[simp] theorem State.readInput_cfg (s : State) (i : Nat) : ((s.readInput i).2).cfg = s.cfg := rfl
@[simp] theorem State.readInput_started (s : State) (i : Nat) : ((s.readInput i).2).started = s.started := rfl
@[simp] theorem State.readInput_pending (s : State) (i : Nat) : ((s.readInput i).2).pending = s.pending := rfl
@[simp] theorem State.readInput_answers (s : State) (i : Nat) : ((s.readInput i).2).answers = s.answers.tail := rfl
@[simp] theorem State.readInput_queries (s : State) (i : Nat) : ((s.readInput i).2).queries = s.queries + 1 := rfl
@[simp] theorem State.readInput_ties (s : State) (i : Nat) : ((s.readInput i).2).ties = s.ties := rfl
@[simp] theorem State.readInput_out (s : State) (i : Nat) :
    ((s.readInput i).2).out = s.out ++ [.readInput i (s.answer 0)] := rfl


/-! ### flashApply -/

@[simp] theorem State.flashApply_addr (s : State) (c : Nat) (on : Bool) (delay : U16) :
    (s.flashApply c on delay).addr = s.addr := by
  unfold State.flashApply; split <;> rfl

@[simp] theorem State.flashApply_baudCode (s : State) (c : Nat) (on : Bool) (delay : U16) :
    (s.flashApply c on delay).baudCode = s.baudCode := by
  unfold State.flashApply; split <;> rfl

@[simp] theorem State.flashApply_acc (s : State) (c : Nat) (on : Bool) (delay : U16) :
    (s.flashApply c on delay).acc = s.acc := by
  unfold State.flashApply; split <;> rfl

@[simp] theorem State.flashApply_hdr (s : State) (c : Nat) (on : Bool) (delay : U16) :
    (s.flashApply c on delay).hdr = s.hdr := by
  unfold State.flashApply; split <;> rfl

@[simp] theorem State.flashApply_cfg (s : State) (c : Nat) (on : Bool) (delay : U16) :
    (s.flashApply c on delay).cfg = s.cfg := by
  unfold State.flashApply; split <;> rfl

@[simp] theorem State.flashApply_started (s : State) (c : Nat) (on : Bool) (delay : U16) :
    (s.flashApply c on delay).started = s.started := by
  unfold State.flashApply; split <;> rfl

@[simp] theorem State.flashApply_pending (s : State) (c : Nat) (on : Bool) (delay : U16) :
    (s.flashApply c on delay).pending = s.pending := by
  unfold State.flashApply; split <;> rfl

@[simp] theorem State.flashApply_answers (s : State) (c : Nat) (on : Bool) (delay : U16) :
    (s.flashApply c on delay).answers = s.answers := by
  unfold State.flashApply; split <;> rfl

@[simp] theorem State.flashApply_queries (s : State) (c : Nat) (on : Bool) (delay : U16) :
    (s.flashApply c on delay).queries = s.queries := by
  unfold State.flashApply; split <;> rfl

@[simp] theorem State.flashApply_ties (s : State) (c : Nat) (on : Bool) (delay : U16) :
    (s.flashApply c on delay).ties = s.ties := by
  unfold State.flashApply; split <;> rfl

@[simp] theorem State.flashApply_out (s : State) (c : Nat) (on : Bool) (delay : U16) :
    (s.flashApply c on delay).out = s.out ++ [.setRelay c on] := by
  unfold State.flashApply; split <;> rfl


/-! ### tickRelays -/

@[simp] theorem State.tickRelays_relays (s : State) : (s.tickRelays).relays = s.relays.map Relay.tick := rfl
@[simp] theorem State.tickRelays_addr (s : State) : (s.tickRelays).addr = s.addr := rfl
@[simp] theorem State.tickRelays_baudCode (s : State) : (s.tickRelays).baudCode = s.baudCode := rfl
@[simp] theorem State.tickRelays_acc (s : State) : (s.tickRelays).acc = s.acc := rfl
@[simp] theorem State.tickRelays_hdr (s : State) : (s.tickRelays).hdr = s.hdr := rfl
@[simp] theorem State.tickRelays_cfg (s : State) : (s.tickRelays).cfg = s.cfg := rfl
@[simp] theorem State.tickRelays_started (s : State) : (s.tickRelays).started = s.started := rfl
@[simp] theorem State.tickRelays_pending (s : State) : (s.tickRelays).pending = s.pending := rfl
@[simp] theorem State.tickRelays_answers (s : State) : (s.tickRelays).answers = s.answers := rfl
@[simp] theorem State.tickRelays_queries (s : State) : (s.tickRelays).queries = s.queries := rfl
@[simp] theorem State.tickRelays_ties (s : State) : (s.tickRelays).ties = s.ties := rfl
@[simp] theorem State.tickRelays_out (s : State) : (s.tickRelays).out = s.out ++ tickEvents 0 s.relays := rfl

/-! ### resetEvent -/

@[simp] theorem State.resetEvent_relays (s : State) (a : Option Byte) (b : Option U32) :
    (s.resetEvent a b).relays = List.replicate s.cfg.nCoils Relay.off := rfl

@[simp] theorem State.resetEvent_addr (s : State) (a : Option Byte) (b : Option U32) :
    (s.resetEvent a b).addr = bootAddrValue a := rfl

@[simp] theorem State.resetEvent_baudCode (s : State) (a : Option Byte) (b : Option U32) :
    (s.resetEvent a b).baudCode = bootBaudValue s.cfg b := rfl

@[simp] theorem State.resetEvent_acc (s : State) (a : Option Byte) (b : Option U32) :
    (s.resetEvent a b).acc = s.acc := rfl

@[simp] theorem State.resetEvent_hdr (s : State) (a : Option Byte) (b : Option U32) :
    (s.resetEvent a b).hdr = s.hdr := rfl

@[simp] theorem State.resetEvent_cfg (s : State) (a : Option Byte) (b : Option U32) :
    (s.resetEvent a b).cfg = s.cfg := rfl

@[simp] theorem State.resetEvent_started (s : State) (a : Option Byte) (b : Option U32) :
    (s.resetEvent a b).started = true := rfl

@[simp] theorem State.resetEvent_pending (s : State) (a : Option Byte) (b : Option U32) :
    (s.resetEvent a b).pending = s.pending := rfl

@[simp] theorem State.resetEvent_answers (s : State) (a : Option Byte) (b : Option U32) :
    (s.resetEvent a b).answers = s.answers := rfl

@[simp] theorem State.resetEvent_queries (s : State) (a : Option Byte) (b : Option U32) :
    (s.resetEvent a b).queries = s.queries := rfl

@[simp] theorem State.resetEvent_ties (s : State) (a : Option Byte) (b : Option U32) :
    (s.resetEvent a b).ties = s.ties := rfl

@[simp] theorem State.resetEvent_out (s : State) (a : Option Byte) (b : Option U32) :
    (s.resetEvent a b).out = s.out := rfl


/-! ### served -/

@[simp] theorem State.served_relays (s : State) (evs : List OutEvent) (rsp : List Byte) :
    (s.served evs rsp).relays = s.relays := rfl

@[simp] theorem State.served_addr (s : State) (evs : List OutEvent) (rsp : List Byte) :
    (s.served evs rsp).addr = s.addr := rfl

@[simp] theorem State.served_baudCode (s : State) (evs : List OutEvent) (rsp : List Byte) :
    (s.served evs rsp).baudCode = s.baudCode := rfl

@[simp] theorem State.served_acc (s : State) (evs : List OutEvent) (rsp : List Byte) :
    (s.served evs rsp).acc = s.acc := rfl

@[simp] theorem State.served_hdr (s : State) (evs : List OutEvent) (rsp : List Byte) :
    (s.served evs rsp).hdr = [] := rfl

@[simp] theorem State.served_cfg (s : State) (evs : List OutEvent) (rsp : List Byte) :
    (s.served evs rsp).cfg = s.cfg := rfl

@[simp] theorem State.served_started (s : State) (evs : List OutEvent) (rsp : List Byte) :
    (s.served evs rsp).started = s.started := rfl

@[simp] theorem State.served_pending (s : State) (evs : List OutEvent) (rsp : List Byte) :
    (s.served evs rsp).pending = s.pending := rfl

@[simp] theorem State.served_answers (s : State) (evs : List OutEvent) (rsp : List Byte) :
    (s.served evs rsp).answers = s.answers := rfl

@[simp] theorem State.served_queries (s : State) (evs : List OutEvent) (rsp : List Byte) :
    (s.served evs rsp).queries = s.queries := rfl

@[simp] theorem State.served_ties (s : State) (evs : List OutEvent) (rsp : List Byte) :
    (s.served evs rsp).ties = s.ties := rfl

@[simp] theorem State.served_out (s : State) (evs : List OutEvent) (rsp : List Byte) :
    (s.served evs rsp).out = s.out ++ evs ++ s.responseEvents rsp := rfl


end Sys2Proof.Machine
end

