-- ==== Sys2Proof/Laws/Ops.lean ====
section
/-! SUPPORT. For each shared operation, one lemma that says once everything it does: the two loops over the
address spaces, the bitmask, the timer operations, the responses. -/

namespace Sys2Proof.Machine

/-! ## MemWrite(COIL) -/

theorem State.writeCoils_frame (s : State) (a : Nat) (vs : List Bool) :
    s.writeCoils a vs = { s with relays := (s.writeCoils a vs).relays, out := (s.writeCoils a vs).out } := by
  induction vs generalizing s a with
  | nil => rfl
  | cons v vs ih => rw [State.writeCoils, ih]; rfl

/-- The events of a coil write: one for each item, in ascending order (R31). -/
theorem State.writeCoils_out (s : State) (a : Nat) (vs : List Bool) :
    (s.writeCoils a vs).out = s.out ++ vs.mapIdx fun i v => .setRelay (a + i) v := by
  induction vs generalizing s a with
  | nil => simp [State.writeCoils]
  | cons v vs ih =>
    simp only [State.writeCoils, ih, State.writeCoil_out, List.mapIdx_cons, List.append_assoc,
      List.singleton_append, Nat.add_zero]
    simp only [Nat.add_assoc, Nat.add_comm 1]

/-- The coils of a coil write: the items of the range take their new value, no timer slot changes (R31, R139). -/
theorem State.writeCoils_relays (s : State) (a : Nat) (vs : List Bool) (c : Nat) :
    (s.writeCoils a vs).relays[c]? =
      s.relays[c]?.map fun r => if a ≤ c then { r with coil := vs.getD (c - a) r.coil } else r := by
  induction vs generalizing s a with
  | nil => simp [State.writeCoils]
  | cons v vs ih =>
    rw [State.writeCoils, ih, State.writeCoil_relays, List.getElem?_modify]
    cases hc : s.relays[c]? with
    | none => rfl
    | some r =>
      rcases Nat.lt_trichotomy c a with h | rfl | h
      · have h1 : ¬ a + 1 ≤ c := by omega
        have h2 : ¬ a ≤ c := by omega
        have h3 : ¬ a = c := by omega
        simp [h1, h2, h3]
      · simp
      · have h1 : a + 1 ≤ c := by omega
        have h2 : a ≤ c := by omega
        have h3 : ¬ a = c := by omega
        obtain ⟨d, rfl⟩ : ∃ d, c = a + 1 + d := ⟨c - (a + 1), by omega⟩
        have h4 : a + 1 + d - (a + 1) = d := by omega
        have h5 : a + 1 + d - a = d + 1 := by omega
        simp [h2, h3, h4, h5]

@[simp] theorem State.writeCoils_length (s : State) (a : Nat) (vs : List Bool) :
    (s.writeCoils a vs).relays.length = s.relays.length := by
  induction vs generalizing s a with
  | nil => rfl
  | cons v vs ih => rw [State.writeCoils, ih, State.writeCoil_relays, List.length_modify]

/-! ## MemRead(INPUT) -/

/-- The queries of an input read: exactly `n`, ascending, each with its recorded answer; nothing else of the
state changes (R32, R101). -/
theorem State.readInputs_eq (s : State) (a n : Nat) :
    s.readInputs a n =
      ((List.range n).map s.answer,
       { s with
         answers := s.answers.drop n
         queries := s.queries + n
         out := s.out ++ (List.range n).map fun j => .readInput (a + j) (s.answer j) }) := by
  induction n generalizing s a with
  | zero => simp [State.readInputs]
  | succ n ih =>
    have hanswer : ∀ j, (s.readInput a).2.answer j = s.answer (j + 1) := by
      intro j
      simp only [State.answer, State.readInput_answers, State.readInput_queries, List.getElem?_tail]
      cases s.answers[j + 1]? with
      | some v => rfl
      | none => simp only [Nat.add_assoc, Nat.add_comm 1 j]
    have hanswers : (List.range n).map (s.readInput a).2.answer = (List.range n).map (s.answer ∘ Nat.succ) :=
      List.map_congr_left fun j _ => hanswer j
    have hevents :
        ((List.range n).map fun j => OutEvent.readInput (a + 1 + j) ((s.readInput a).2.answer j)) =
          (List.range n).map ((fun j => OutEvent.readInput (a + j) (s.answer j)) ∘ Nat.succ) :=
      List.map_congr_left fun j _ => by simp [hanswer, Nat.add_assoc, Nat.add_comm 1 j]
    simp only [State.readInputs, ih, List.range_succ_eq_map, List.map_cons, List.map_map, hanswers, hevents]
    simp [State.readInput, State.emit, Nat.add_assoc, Nat.add_comm 1 n]

/-! ## pack -/

theorem packNat_testBit (bits : List Bool) (i : Nat) : (packNat bits).testBit i = bits.getD i false := by
  induction bits generalizing i with
  | nil => simp [packNat]
  | cons b bits ih =>
    cases i with
    | zero => cases b <;> simp [packNat, Nat.testBit_zero]
    | succ i =>
      have : (b.toNat + 2 * packNat bits) / 2 = packNat bits := by
        cases b <;> simp only [Bool.toNat_false, Bool.toNat_true] <;> omega
      simp [packNat, Nat.testBit_succ, this, ih]

/-- Bit `i` of the mask is item `i`, and bits above the last item are 0 (R103, R36). -/
theorem pack_getLsbD (bits : List Bool) (i : Nat) (h : i < 8) : (pack bits).getLsbD i = bits.getD i false := by
  rw [pack, BitVec.getLsbD_ofNat, packNat_testBit]
  simp [h]

/-! ## The relay timers -/

theorem State.flashApply_relays (s : State) (c : Nat) (on : Bool) (delay : U16) :
    (s.flashApply c on delay).relays =
      s.relays.modify c fun _ =>
        if delay = 0#16 then { coil := on, active := false, period := 0#16, cnt := 0#16 }
        else { coil := on, active := true, period := delay, cnt := delay } := by
  by_cases h : delay = 0#16
  · simp only [State.flashApply, h, if_true, State.writeCoil_relays, State.modifyRelay_relays,
      List.modify_modify_eq]
    rfl
  · simp only [State.flashApply, h, if_false, State.writeCoil_relays, State.modifyRelay_relays,
      List.modify_modify_eq]
    rfl

/-- A strobe keeps every timer slot sound (R18, R137). -/
theorem Relay.tick_inv (r : Relay) (h : r.Inv) : r.tick.Inv := by
  obtain ⟨coil, active, period, cnt⟩ := r
  obtain ⟨h1, h2⟩ := h
  cases active with
  | false => exact ⟨fun _ => h1 rfl, fun e => absurd e (by simp [Relay.tick, Relay.expires])⟩
  | true =>
    obtain ⟨hlo, hhi⟩ := h2 rfl
    simp only at hlo hhi
    by_cases hc : cnt = 1#16
    · subst hc
      refine ⟨fun e => absurd e (by simp [Relay.tick, Relay.expires]), fun _ => ?_⟩
      have : 1 ≤ period.toNat := by simpa using hhi
      simpa [Relay.tick, Relay.expires] using this
    · refine ⟨fun e => absurd e (by simp [Relay.tick, Relay.expires, hc]), fun _ => ?_⟩
      have hne : cnt.toNat ≠ 1 := fun e => hc (BitVec.eq_of_toNat_eq (by simpa using e))
      have hsub : (cnt - 1#16).toNat = cnt.toNat - 1 := by
        rw [BitVec.toNat_sub_of_le (by simpa [BitVec.le_def] using hlo)]; rfl
      simp only [Relay.tick, Relay.expires, hc, Bool.true_and, beq_iff_eq, if_false, if_true, hsub]
      omega

/-- The events of a strobe: the relays that toggle, ascending, each with its new value (R137). -/
theorem tickEvents_eq (rs : List Relay) (c : Nat) :
    tickEvents c rs =
      (rs.mapIdx fun i r => if r.expires then [OutEvent.setRelay (c + i) (!r.coil)] else []).flatten := by
  induction rs generalizing c with
  | nil => rfl
  | cons r rs ih =>
    have hshift : ∀ i, c + 1 + i = c + (i + 1) := by omega
    by_cases h : r.expires
    · simp [tickEvents, h, ih, hshift, Relay.tick]
    · simp [tickEvents, h, ih, hshift]

/-! ## Responses -/

/-- Serving a request without events of its own is responding. -/
theorem State.respond_eq_served (s : State) (rsp : List Byte) : s.respond rsp = s.served [] rsp := by
  simp [State.respond, State.served]

/-- A protocol exception changes nothing but the response (R156). -/
theorem State.raiseExc_eq_served (s : State) (function : Byte) (code : ExcCode) :
    s.raiseExc function code = s.served [] (excPdu function code) :=
  s.respond_eq_served _

/-- The response depends on the header kept and the parameters only. -/
theorem State.responseEvents_congr {s t : State} (hdr : t.hdr = s.hdr) (cfg : t.cfg = s.cfg) (rsp : List Byte) :
    t.responseEvents rsp = s.responseEvents rsp := by
  simp [State.responseEvents, State.muted, hdr, cfg]

/-- A flash command either acts on its relay and echoes, or is exception 0x02 (R123). -/
theorem flashCommand_cases (start mode delay : U16) (s : State) :
    (flashRelay start < s.cfg.nCoils ∧
      flashCommand start mode delay s =
        (s.flashApply (flashRelay start) (flashOn mode) delay).served [] (pduHead 0x10#8 start 2#16)) ∨
    (s.cfg.nCoils ≤ flashRelay start ∧
      flashCommand start mode delay s = s.served [] (excPdu 0x10#8 .illegalAddress)) := by
  by_cases h : flashRelay start < s.cfg.nCoils
  · exact .inl ⟨h, by simp [flashCommand, h, State.respond_eq_served]⟩
  · exact .inr ⟨by omega, by simp [flashCommand, h, State.raiseExc_eq_served]⟩

end Sys2Proof.Machine
end

