-- ==== Sys2Proof/Laws/PerInstr.lean ====
section
/-! SUPPORT. The per-instruction family EncodedHead: the encoding of a request is at least five bytes long and
begins with its function byte (R54). -/

namespace Sys2Proof.Laws.EncodedHead

open Sys2Proof

/-- The encoding of `i`, where it has one, holds the five bytes of every request, function byte first. -/
def Statement (i : Instr) : Prop :=
  ∀ pdu, encode i = some pdu → 5 ≤ pdu.length ∧ pdu.head? = i.functionByte

theorem rdCoils (start quantity : U16) : Statement (.rdCoils start quantity) := by
  rintro _ ⟨⟩; exact ⟨by simp [pduHead], rfl⟩

theorem rdInputs (start quantity : U16) : Statement (.rdInputs start quantity) := by
  rintro _ ⟨⟩; exact ⟨by simp [pduHead], rfl⟩

theorem rdHold (start quantity : U16) : Statement (.rdHold start quantity) := by
  rintro _ ⟨⟩; exact ⟨by simp [pduHead], rfl⟩

theorem wrCoil (address value : U16) : Statement (.wrCoil address value) := by
  rintro _ ⟨⟩; exact ⟨by simp [pduHead], rfl⟩

theorem wrCoils (start quantity : U16) (byteCount d0 : Option Byte) :
    Statement (.wrCoils start quantity byteCount d0) := by
  rintro _ ⟨⟩; exact ⟨by simp [pduHead], rfl⟩

theorem setAddr (d0 d1 : Byte) : Statement (.setAddr d0 d1) := by
  rintro _ ⟨⟩; exact ⟨by simp [pduHead], rfl⟩

theorem setBaud (d0 d1 : Byte) : Statement (.setBaud d0 d1) := by
  rintro _ ⟨⟩; exact ⟨by simp [pduHead], rfl⟩

theorem flash0 (mode delay : U16) : Statement (.flash0 mode delay) := by
  rintro _ ⟨⟩; exact ⟨by simp [encodeFlash, pduHead], rfl⟩

theorem flash1 (mode delay : U16) : Statement (.flash1 mode delay) := by
  rintro _ ⟨⟩; exact ⟨by simp [encodeFlash, pduHead], rfl⟩

theorem flash2 (mode delay : U16) : Statement (.flash2 mode delay) := by
  rintro _ ⟨⟩; exact ⟨by simp [encodeFlash, pduHead], rfl⟩

theorem flash3 (mode delay : U16) : Statement (.flash3 mode delay) := by
  rintro _ ⟨⟩; exact ⟨by simp [encodeFlash, pduHead], rfl⟩

theorem wrRegsOther (start quantity : U16) (rest : List Byte) : Statement (.wrRegsOther start quantity rest) := by
  rintro _ ⟨⟩; exact ⟨by simp [pduHead], rfl⟩

theorem illegal (function : Byte) : Statement (.illegal function) := by
  rintro _ ⟨⟩; exact ⟨by simp [pduHead], rfl⟩

theorem tick : Statement .tick := by rintro _ ⟨⟩

theorem reset (bootAddr : Option Byte) (bootBaud : Option U32) : Statement (.reset bootAddr bootBaud) := by
  rintro _ ⟨⟩

theorem crcInit : Statement .crcInit := by rintro _ ⟨⟩

theorem crcBit : Statement .crcBit := by rintro _ ⟨⟩

theorem crcByte (b : Byte) : Statement (.crcByte b) := by rintro _ ⟨⟩

end Sys2Proof.Laws.EncodedHead
end

