-- ==== Sys2Proof/Laws/Step.lean ====
section
/-! SUPPORT. What the parse, the fetch and the step can do, said once. -/

namespace Sys2Proof.Machine

/-- The three checks of the RTU parse in their order, and what it hands on (R81). -/
theorem parseRtu_cases (addr : Byte) (f : List Byte) :
    (f.length < 8 ∧ parseRtu addr f = .error .tooShort) ∨
    (8 ≤ f.length ∧ crcOk f = false ∧ parseRtu addr f = .error .crcMismatch) ∨
    (8 ≤ f.length ∧ crcOk f = true ∧ f.head? ≠ some addr ∧ f.head? ≠ some 0#8 ∧
      parseRtu addr f = .error .unitIdMismatch) ∨
    (8 ≤ f.length ∧ crcOk f = true ∧ (f.head? = some addr ∨ f.head? = some 0#8) ∧
      parseRtu addr f = .ok (f.take 1, (f.take (f.length - 2)).drop 1)) := by
  by_cases hlen : f.length < 8
  · exact .inl ⟨hlen, by simp [parseRtu, rtuMinLen, hlen]⟩
  by_cases hcrc : crcOk f = true
  · by_cases hunit : f.head? ≠ some addr ∧ f.head? ≠ some 0#8
    · refine .inr (.inr (.inl ⟨by omega, hcrc, hunit.1, hunit.2, ?_⟩))
      simp only [parseRtu, rtuMinLen, hlen, hcrc, broadcast]
      simp [hunit.1, hunit.2]
    · refine .inr (.inr (.inr ⟨by omega, hcrc, by tauto, ?_⟩))
      simp only [parseRtu, rtuMinLen, hlen, hcrc, broadcast]
      simp [hunit]
  · refine .inr (.inl ⟨by omega, by simpa using hcrc, ?_⟩)
    simp [parseRtu, rtuMinLen, hlen, hcrc]

/-- The one check of the TCP parse, and what it hands on (R82). -/
theorem parseTcp_cases (f : List Byte) :
    (f.length < 12 ∧ parseTcp f = .error .tooShort) ∨
    (12 ≤ f.length ∧ parseTcp f = .ok (f.take 7, f.drop 7)) := by
  by_cases h : f.length < 12
  · exact .inl ⟨h, by simp [parseTcp, tcpMinLen, h]⟩
  · exact .inr ⟨by omega, by simp [parseTcp, tcpMinLen, tcpHdrLen, h]⟩

/-- A parsed frame has a PDU of five bytes or more, so the decoder reads it (R54). -/
theorem State.parse_pdu_length (s : State) (f hdr pdu : List Byte) (h : s.parse f = .ok (hdr, pdu)) :
    5 ≤ pdu.length := by
  unfold State.parse at h
  split at h
  · rcases parseRtu_cases s.addr f with ⟨_, e⟩ | ⟨_, _, e⟩ | ⟨_, _, _, _, e⟩ | ⟨hl, _, _, e⟩ <;> rw [e] at h
    · cases h
    · cases h
    · cases h
    · injection h with h
      injection h with _ h
      subst h
      simp only [List.length_drop, List.length_take]
      omega
  · rcases parseTcp_cases f with ⟨_, e⟩ | ⟨hl, e⟩ <;> rw [e] at h
    · cases h
    · injection h with h
      injection h with _ h
      subst h
      simp only [List.length_drop]
      omega

/-- The decoder reads every PDU of five bytes or more (R56: every function code has a row). -/
theorem decode_of_length (pdu : List Byte) (h : 5 ≤ pdu.length) : ∃ i, decode pdu = .ok i := by
  match pdu, h with
  | function :: a1 :: a0 :: q1 :: q0 :: rest, _ => exact ⟨_, rfl⟩

/-- What one frame comes to: refused, dropped as the parse says, or run as decoded. -/
theorem State.fetchFrame_cases (s : State) (f : List Byte) :
    (s.cfg.frameMax < f.length ∧ s.fetchFrame f = .refuse .frameTooLong) ∨
    (f.length ≤ s.cfg.frameMax ∧ ∃ why, s.parse f = .error why ∧ s.fetchFrame f = .dropped why s) ∨
    (f.length ≤ s.cfg.frameMax ∧ ∃ hdr pdu i, s.parse f = .ok (hdr, pdu) ∧ decode pdu = .ok i ∧
      s.fetchFrame f = .run i { s with hdr := hdr }) := by
  by_cases hlen : s.cfg.frameMax < f.length
  · exact .inl ⟨hlen, by simp [State.fetchFrame, hlen]⟩
  refine .inr ?_
  cases hp : s.parse f with
  | error why => exact .inl ⟨by omega, why, rfl, by simp [State.fetchFrame, hlen, hp]⟩
  | ok parsed =>
    obtain ⟨hdr, pdu⟩ := parsed
    obtain ⟨i, hi⟩ := decode_of_length pdu (s.parse_pdu_length f hdr pdu hp)
    exact .inr ⟨by omega, hdr, pdu, i, rfl, hi, by simp [State.fetchFrame, hlen, hp, hi]⟩

/-- What a step can do when it goes on: hold, take a frame and drop it, or run one instruction. -/
theorem step_next_cases (s t : State) (h : step s = .next t) :
    (s.fetch = .idle ∧ t = s) ∨ (∃ why, s.fetch = .dropped why t) ∨
    (∃ i s', s.fetch = .run i s' ∧ exec i s' = .next t) := by
  unfold step at h
  split at h
  · next e => exact .inl ⟨e, by injection h with h; exact h.symm⟩
  · next e => exact .inr (.inl ⟨_, by injection h with h; exact h ▸ e⟩)
  · cases h
  · next e => exact .inr (.inr ⟨_, _, e, h⟩)

/-- Every instruction goes on: no meaning faults or refuses (R150). -/
theorem exec_goes_on (i : Instr) (s : State) : ∃ t, exec i s = .next t := by
  cases i <;> simp only [exec]
  case rdCoils => unfold execRdCoils; split <;> exact ⟨_, rfl⟩
  case rdInputs => unfold execRdInputs; split <;> exact ⟨_, rfl⟩
  case rdHold => unfold execRdHold; split <;> exact ⟨_, rfl⟩
  case wrCoil => unfold execWrCoil; repeat' split
                 all_goals exact ⟨_, rfl⟩
  case wrCoils => unfold execWrCoils; repeat' split
                  all_goals exact ⟨_, rfl⟩
  all_goals exact ⟨_, rfl⟩

end Sys2Proof.Machine
end

