-- ==== Sys2Proof/Tests/Slice0.lean ====
section
/-! SUPPORT. Tests: the smoke test of `Instr.wf`, words written out from the encoding tables, single steps whose
expected bytes stand in `spec/95_test_vectors.md`, and for every statement with hypotheses a concrete case that
meets them. -/

namespace Sys2Proof.Tests

open Sys2Proof Sys2Proof.Machine

/-! ## Helpers -/

/-- The next state, if the step has one. -/
def after : Host.Outcome State Fault Refusal → Option State
  | .next t => some t
  | _ => none

/-- The outputs of a step from a state that has none yet. -/
def outputs (o : Host.Outcome State Fault Refusal) : Option (List OutEvent) := (after o).map State.out

/-- An RTU device with four relays, as in parts 2.2 to 2.6 of the vectors: the coils given, all timers off. -/
def rtu (addr : Byte) (coils : List Bool) : State :=
  { State.boot Config.rtuDefault with addr := addr, relays := coils.map fun v => { Relay.off with coil := v } }

/-- The RTU device with address 1 and all coils OFF. -/
def dev : State := rtu 0x01#8 [false, false, false, false]

/-- A TCP device with two relays and address 1. -/
def tcp : State := { State.boot Config.tcpDefault with addr := 0x01#8 }

/-- The state when `f` is presented next. -/
def on (s : State) (f : List Byte) : State := { s with pending := [.single (.frameIn f)] }

/-- The state with one relay's timer running. -/
def flashing (s : State) (c : Nat) (coil : Bool) (period cnt : U16) : State :=
  { s with relays := s.relays.set c { coil := coil, active := true, period := period, cnt := cnt } }

/-! ## Well-formedness: an ill-formed term for each check -/

/-- A data byte without a byte count (R54). -/
theorem test_wf_refuses_data_without_count : (Instr.wrCoils 0#16 4#16 none (some 0x0F#8)).wf = false := by decide
/-- A request that the SETADDR row takes (R57). -/
theorem test_wf_refuses_other_that_is_setaddr :
    (Instr.wrRegsOther 0x0000#16 1#16 [2#8, 0#8, 5#8]).wf = false := by decide
/-- One of the six function codes (R56). -/
theorem test_wf_refuses_implemented_as_illegal : (Instr.illegal 0x0F#8).wf = false := by decide
theorem test_wf_admits_short_other : (Instr.wrRegsOther 0x0000#16 1#16 [2#8, 5#8]).wf = true := by decide

/-! ## Decoding of words written out from R54 and R57 -/

theorem test_decode_rdcoils : decode [0x01, 0x00, 0x01, 0x00, 0x03] = .ok (.rdCoils 0x0001 0x0003) := rfl
theorem test_decode_rdinputs : decode [0x02, 0xAB, 0xCD, 0x12, 0x34] = .ok (.rdInputs 0xABCD 0x1234) := rfl
theorem test_decode_rdhold : decode [0x03, 0x03, 0xE9, 0x00, 0x01] = .ok (.rdHold 0x03E9 0x0001) := rfl
theorem test_decode_wrcoil : decode [0x05, 0x00, 0x02, 0xFF, 0x00] = .ok (.wrCoil 0x0002 0xFF00) := rfl
theorem test_decode_wrcoils : decode [0x0F, 0x00, 0x00, 0x00, 0x04, 0x01, 0x0A] =
    .ok (.wrCoils 0x0000 0x0004 (some 0x01) (some 0x0A)) := rfl
/-- V-WC8: no byte count. -/
theorem test_decode_wrcoils_short : decode [0x0F, 0x00, 0x00, 0x00, 0x04] =
    .ok (.wrCoils 0x0000 0x0004 none none) := rfl
theorem test_decode_setaddr : decode [0x10, 0x00, 0x00, 0x00, 0x01, 0x02, 0x12, 0xF7] =
    .ok (.setAddr 0x12 0xF7) := rfl
theorem test_decode_setbaud : decode [0x10, 0x03, 0xE9, 0x00, 0x01, 0x02, 0x00, 0x04] =
    .ok (.setBaud 0x00 0x04) := rfl
theorem test_decode_flash0 : decode [0x10, 0x00, 0x03, 0x00, 0x02, 0x04, 0x00, 0x01, 0x00, 0x05] =
    .ok (.flash0 0x0001 0x0005) := rfl
theorem test_decode_flash1 : decode [0x10, 0x00, 0x08, 0x00, 0x02, 0x04, 0x00, 0x00, 0x00, 0x01] =
    .ok (.flash1 0x0000 0x0001) := rfl
theorem test_decode_flash2 : decode [0x10, 0x00, 0x0D, 0x00, 0x02, 0x04, 0x12, 0x34, 0xAB, 0xCD] =
    .ok (.flash2 0x1234 0xABCD) := rfl
theorem test_decode_flash3 : decode [0x10, 0x00, 0x12, 0x00, 0x02, 0x04, 0x00, 0x02, 0xFF, 0xFF] =
    .ok (.flash3 0x0002 0xFFFF) := rfl
/-- V-WR18: three data bytes. -/
theorem test_decode_wrregs_other : decode [0x10, 0x00, 0x03, 0x00, 0x02, 0x04, 0x00, 0x01, 0x00] =
    .ok (.wrRegsOther 0x0003 0x0002 [0x04, 0x00, 0x01, 0x00]) := rfl
theorem test_decode_illegal : decode [0x99, 0x00, 0x00, 0x00, 0x00] = .ok (.illegal 0x99) := rfl
theorem test_decode_too_short : decode [0x01, 0x00, 0x00, 0x00] = .error .pduTooShort := rfl
/-- The host's numbering (log 12): byte 0 in bits 7..0. -/
theorem test_table_word : decodeTableWord 40 0x0403020101 = some (.rdCoils 0x0102 0x0304) := by decide
/-- The first step after reset runs the word it is given, and answers it. -/
theorem test_fetch_word : outputs (step (State.reset.withFetchWord 8 0x99)) =
    some [.frameOut (rtuFrame 0xFF [0x99, 0x01])] := by decide +kernel

/-! ## Single steps, from the vectors -/

/-- V-RD2. -/
theorem test_rdcoils : outputs (step (on (rtu 0x01 [true, false, true, false])
    [0x01, 0x01, 0x00, 0x00, 0x00, 0x04, 0x3D, 0xC9])) =
    some [.frameOut [0x01, 0x01, 0x01, 0x05, 0x91, 0x8B]] := by decide +kernel
/-- V-RD6. -/
theorem test_rdcoils_no_wrap : outputs (step (on dev [0x01, 0x01, 0xFF, 0xFF, 0x00, 0x01, 0xFD, 0xEE])) =
    some [.frameOut [0x01, 0x81, 0x02, 0xC1, 0x91]] := by decide +kernel
/-- V-TT3. -/
theorem test_rdinputs_tcp : outputs (step (on { tcp with answers := [true, false] }
    [0x12, 0x37, 0x00, 0x00, 0x00, 0x06, 0x09, 0x02, 0x00, 0x00, 0x00, 0x02])) =
    some [.readInput 0 true, .readInput 1 false,
      .frameOut [0x12, 0x37, 0x00, 0x00, 0x00, 0x04, 0x09, 0x02, 0x01, 0x01]] := by decide +kernel
/-- V-RD8. -/
theorem test_rdinputs : outputs (step (on { dev with answers := [false, false, false, false] }
    [0x01, 0x02, 0x00, 0x00, 0x00, 0x04, 0x79, 0xC9])) =
    some [.readInput 0 false, .readInput 1 false, .readInput 2 false, .readInput 3 false,
      .frameOut [0x01, 0x02, 0x01, 0x00, 0xA1, 0x88]] := by decide +kernel
/-- V-RD11: an unconfigured device answers a broadcast. -/
theorem test_rdhold_broadcast : outputs (step (on State.reset [0x00, 0x03, 0x00, 0x00, 0x00, 0x01, 0x85, 0xDB])) =
    some [.frameOut [0x00, 0x03, 0x02, 0x00, 0xFF, 0xC5, 0xC4]] := by decide +kernel
/-- V-RD13. -/
theorem test_rdhold_baud : outputs (step (on dev [0x01, 0x03, 0x03, 0xE9, 0x00, 0x01, 0x55, 0xBA])) =
    some [.frameOut [0x01, 0x83, 0x02, 0xC0, 0xF1]] := by decide +kernel
/-- S6, V-WC1, V-FL7: the timer of the relay is not touched. -/
theorem test_wrcoil_keeps_timer :
    after (step (on (flashing dev 0 true 5 4) [0x01, 0x05, 0x00, 0x00, 0xFF, 0x00, 0x8C, 0x3A])) =
    some { flashing dev 0 true 5 4 with
      out := [.setRelay 0 true, .frameOut [0x01, 0x05, 0x00, 0x00, 0xFF, 0x00, 0x8C, 0x3A]] } := by decide +kernel
/-- V-WC4b: both bad, the address is checked first. -/
theorem test_wrcoil_address_first : outputs (step (on dev [0x01, 0x05, 0x00, 0x04, 0x12, 0x34, 0x81, 0x7C])) =
    some [.frameOut [0x01, 0x85, 0x02, 0xC3, 0x51]] := by decide +kernel
/-- V-WC11: the high bits of the data byte are set. -/
theorem test_wrcoils : after (step (on dev [0x01, 0x0F, 0x00, 0x00, 0x00, 0x04, 0x01, 0xF5, 0xFE, 0xD1])) =
    some { rtu 0x01 [true, false, true, false] with
      out := [.setRelay 0 true, .setRelay 1 false, .setRelay 2 true, .setRelay 3 false,
        .frameOut [0x01, 0x0F, 0x00, 0x00, 0x00, 0x04, 0x54, 0x08]] } := by decide +kernel
/-- V-WC9: a byte count but no data. -/
theorem test_wrcoils_no_data :
    outputs (step (on dev [0x01, 0x0F, 0x00, 0x00, 0x00, 0x04, 0x01, 0xC8, 0x3F])) =
    some [.frameOut [0x01, 0x8F, 0x02, 0xC5, 0xF1]] := by decide +kernel
/-- V-WR5. -/
theorem test_setaddr : after (step (on (rtu 0x05 []) [0x05, 0x10, 0x00, 0x00, 0x00, 0x01, 0x02, 0x12, 0xF7, 0xD9, 0xB6])) =
    some { rtu 0xF7 [] with
      out := [.persistU8 .keyAddr 0xF7, .frameOut [0x05, 0x10, 0x00, 0x00, 0x00, 0x01, 0x00, 0x4D]] } := by
  decide +kernel
/-- V-WR4: 248 changes nothing. -/
theorem test_setaddr_out_of_range :
    after (step (on (rtu 0x05 []) [0x05, 0x10, 0x00, 0x00, 0x00, 0x01, 0x02, 0x00, 0xF8, 0x95, 0x12])) =
    some { rtu 0x05 [] with out := [.frameOut [0x05, 0x10, 0x00, 0x00, 0x00, 0x01, 0x00, 0x4D]] } := by decide +kernel
/-- V-WR8. -/
theorem test_setbaud : after (step (on dev [0x01, 0x10, 0x03, 0xE9, 0x00, 0x01, 0x02, 0x00, 0x04, 0x82, 0x6A])) =
    some { dev with
      baudCode := .c04
      out := [.persistU32 .keyBaud 19200, .frameOut [0x01, 0x10, 0x03, 0xE9, 0x00, 0x01, 0xD0, 0x79]] } := by
  decide +kernel
/-- V-WR9: code 5 changes nothing. -/
theorem test_setbaud_unknown :
    after (step (on dev [0x01, 0x10, 0x03, 0xE9, 0x00, 0x01, 0x02, 0x00, 0x05, 0x43, 0xAA])) =
    some { dev with out := [.frameOut [0x01, 0x10, 0x03, 0xE9, 0x00, 0x01, 0xD0, 0x79]] } := by decide +kernel
/-- V-FL1. -/
theorem test_flash0 :
    after (step (on dev [0x01, 0x10, 0x00, 0x03, 0x00, 0x02, 0x04, 0x00, 0x01, 0x00, 0x05, 0x22, 0x79])) =
    some { flashing dev 0 true 5 5 with
      out := [.setRelay 0 true, .frameOut [0x01, 0x10, 0x00, 0x03, 0x00, 0x02, 0xB1, 0xC8]] } := by decide +kernel
/-- V-FL3: a static command takes the timer down. -/
theorem test_flash0_static : after (step (on (flashing dev 0 true 5 1)
    [0x01, 0x10, 0x00, 0x03, 0x00, 0x02, 0x04, 0x00, 0x00, 0x00, 0x00, 0xB3, 0xBA])) =
    some { dev with
      out := [.setRelay 0 false, .frameOut [0x01, 0x10, 0x00, 0x03, 0x00, 0x02, 0xB1, 0xC8]] } := by decide +kernel
/-- P2 line 8. -/
theorem test_flash1 :
    after (step (on dev [0x01, 0x10, 0x00, 0x08, 0x00, 0x02, 0x04, 0x00, 0x00, 0x00, 0x01, 0x33, 0xC9])) =
    some { flashing dev 1 false 1 1 with
      out := [.setRelay 1 false, .frameOut [0x01, 0x10, 0x00, 0x08, 0x00, 0x02, 0xC0, 0x0A]] } := by decide +kernel
/-- V-FL9: a bank of two relays has no relay 2. -/
theorem test_flash2_no_relay : after (step (on tcp
    [0x12, 0x3B, 0x00, 0x00, 0x00, 0x0B, 0x01, 0x10, 0x00, 0x0D, 0x00, 0x02, 0x04, 0x00, 0x01, 0x00, 0x05])) =
    some { tcp with out := [.frameOut [0x12, 0x3B, 0x00, 0x00, 0x00, 0x03, 0x01, 0x90, 0x02]] } := by decide +kernel
/-- R123 with `k = 2`. -/
theorem test_flash2 : (after (exec (.flash2 0x0101 7) dev)).map State.relays =
    some (flashing dev 2 false 7 7).relays := by decide +kernel
/-- V-FL4: the old timer is gone. -/
theorem test_flash3 : after (step (on (flashing dev 3 true 1 1)
    [0x01, 0x10, 0x00, 0x12, 0x00, 0x02, 0x04, 0x00, 0x02, 0xFF, 0xFF, 0xD3, 0x0A])) =
    some { flashing dev 3 false 65535 65535 with
      out := [.setRelay 3 false, .frameOut [0x01, 0x10, 0x00, 0x12, 0x00, 0x02, 0xE1, 0xCD]] } := by decide +kernel
/-- V-WR17. -/
theorem test_wrregs_other :
    after (step (on dev [0x01, 0x10, 0x00, 0x17, 0x00, 0x02, 0x04, 0x00, 0x01, 0x00, 0x05, 0x22, 0x86])) =
    some { dev with out := [.frameOut [0x01, 0x90, 0x02, 0xCD, 0xC1]] } := by decide +kernel
/-- V-WR14: one data byte of two. -/
theorem test_wrregs_short : after (step (on dev [0x01, 0x10, 0x00, 0x00, 0x00, 0x01, 0x02, 0x05, 0x00, 0xA5])) =
    some { dev with out := [.frameOut [0x01, 0x90, 0x02, 0xCD, 0xC1]] } := by decide +kernel
/-- S8, RTU. -/
theorem test_illegal : after (step (on dev [0x01, 0x99, 0x00, 0x00, 0x00, 0x00, 0x1D, 0xD6])) =
    some { dev with out := [.frameOut [0x01, 0x99, 0x01, 0x8B, 0x90]] } := by decide +kernel
/-- P1 line 8. -/
theorem test_illegal_low : outputs (step (on dev [0x01, 0x2B, 0x00, 0x00, 0x00, 0x00, 0x25, 0xCC])) =
    some [.frameOut [0x01, 0xAB, 0x01, 0x9E, 0xF0]] := by decide +kernel
/-- P2 line 10: two relays toggle in one strobe. -/
theorem test_tick : after (exec .tick (flashing (flashing dev 0 true 2 1) 1 true 1 1)) =
    some { flashing (flashing dev 0 false 2 2) 1 false 1 1 with out := [.setRelay 0 false, .setRelay 1 false] } := by
  decide
/-- P2 line 2: a strobe that only counts. -/
theorem test_tick_counts : after (exec .tick (flashing dev 0 true 2 2)) = some (flashing dev 0 true 2 1) := by decide
/-- V-RS4: illegal stored values. -/
theorem test_reset_illegal_values : (after (exec (.reset (some 0) (some 115200)) (flashing dev 0 true 2 2))) =
    some State.reset := by decide
/-- V-RS3. -/
theorem test_reset_stored_values : (after (exec (.reset (some 247) (some 19200)) dev)) =
    some { State.reset with addr := 0xF7, baudCode := .c04 } := by decide
theorem test_crc_init : (after (exec .crcInit { dev with acc := 0x1234 })).map State.acc = some 0xFFFF := by decide
/-- V-CRC-B. -/
theorem test_crc_bit : (after (exec .crcBit { dev with acc := 0xA001 })).map State.acc = some 0xF001 := by decide
theorem test_crc_bit_even : (after (exec .crcBit { dev with acc := 0x1234 })).map State.acc = some 0x091A := by decide
/-- V-CRC-Y. -/
theorem test_crc_byte : (after (exec (.crcByte 0x56) { dev with acc := 0x1234 })).map State.acc = some 0xE993 := by
  decide +kernel
theorem test_crc_byte_ones : (after (exec (.crcByte 0xFF) { dev with acc := 0x0000 })).map State.acc = some 0x4040 := by
  decide +kernel
/-- V-TR5: a surplus payload byte. -/
theorem test_surplus_is_ignored : outputs (step (on dev [0x01, 0x05, 0x00, 0x00, 0xFF, 0x00, 0xAA, 0xBB, 0xDA])) =
    some [.setRelay 0 true, .frameOut [0x01, 0x05, 0x00, 0x00, 0xFF, 0x00, 0x8C, 0x3A]] := by decide +kernel
/-- V-TR1, V-TR2, V-TR3. -/
theorem test_drops :
    after (step (on dev [0x01, 0x05, 0x00, 0x00, 0xFF, 0x59, 0x4C])) = some dev ∧
    after (step (on dev [0x01, 0x05, 0x00, 0x00, 0xFF, 0x00, 0x8C, 0x3B])) = some dev ∧
    after (step (on dev [0x02, 0x05, 0x00, 0x00, 0xFF, 0x00, 0x8C, 0x09])) = some dev := by decide +kernel

/-! ## Witnesses: a concrete case that meets the hypotheses of each statement, one for each of its clauses -/

/-- DecodeEncodeRequest. -/
theorem witness_wellformed_requests :
    (Instr.rdCoils 0xFFFF 0).wf = true ∧ (Instr.rdCoils 0xFFFF 0).isRequest = true ∧
    (Instr.wrCoils 0 4 (some 1) none).wf = true ∧ (Instr.wrCoils 0 4 (some 1) none).isRequest = true ∧
    (Instr.wrRegsOther 0 1 [2, 5]).wf = true ∧ (Instr.wrRegsOther 0 1 [2, 5]).isRequest = true ∧
    (Instr.illegal 0xFF).wf = true ∧ (Instr.illegal 0xFF).isRequest = true := by decide

/-- DecodeCoversEveryPdu: lengths 4 and 5, where the clauses meet. -/
theorem witness_pdu_lengths :
    ([0x01, 0, 0, 0] : List Byte).length < 5 ∧ 5 ≤ ([0x01, 0, 0, 0, 0] : List Byte).length := by decide

/-- DecodeAgreesWithOpcodeTable, DecodedRequestIsPrefixOfPdu: a PDU with two surplus bytes. -/
theorem witness_decoded_pdu : decode [0x10, 0, 0, 0, 1, 2, 0, 5, 0xAA, 0xBB] = .ok (.setAddr 0 5) := rfl

/-- CrcCheckComparesTrailingBytes, second clause. -/
theorem witness_crc_verifies : crcOk ([0x01, 0x05, 0x00, 0x00, 0xFF, 0x00] ++ [0x8C, 0x3A]) = true ∧
    (0x8C : Byte) ≠ 0x3A := by decide +kernel

/-- CrcDetectsEverySingleBitError: a bit of the message and the last bit of the checksum, flipped. -/
theorem witness_single_bit : 0 < ([0xA5] : List Byte).length + 2 ∧ 2 < ([0xA5] : List Byte).length + 2 ∧ 7 < 8 ∧
    crcOk ((crcAppend [0xA5]).modify 2 fun b => b ^^^ (1#8 <<< 7)) = false := by decide +kernel

/-- CrcResidueIsZero: the shortest frame that is asked, verifying and not. -/
theorem witness_residue : 2 ≤ ([0xFF, 0xFF] : List Byte).length ∧ crcOk [0xFF, 0xFF] = true ∧
    2 ≤ ([0x00, 0x00] : List Byte).length ∧ crcOk [0x00, 0x00] = false := by decide +kernel

/-- RtuFrameIsServedOrDropped, StepRunsDecodedInstruction: a frame for each of the three rejections (with length 7
and 8 about the limit), and one served to each of the two unit ids. -/
theorem witness_rtu_frames :
    dev.cfg.transport = .rtu ∧ dev.started = true ∧
    ([0x01, 0x05, 0x00, 0x00, 0xFF, 0x59, 0x4C] : List Byte).length < 8 ∧
    crcOk [0x01, 0x05, 0x00, 0x00, 0xFF, 0x00, 0x8C, 0x3B] = false ∧
    crcOk [0x02, 0x05, 0x00, 0x00, 0xFF, 0x00, 0x8C, 0x09] = true ∧ some 0x02#8 ≠ some dev.addr ∧
    8 ≤ ([0x01, 0x05, 0x00, 0x00, 0xFF, 0x00, 0x8C, 0x3A] : List Byte).length ∧
    crcOk [0x01, 0x05, 0x00, 0x00, 0xFF, 0x00, 0x8C, 0x3A] = true ∧ some 0x01#8 = some dev.addr ∧
    crcOk [0x00, 0x05, 0x00, 0x01, 0xFF, 0x00, 0xDC, 0x2B] = true ∧ 8 ≤ dev.cfg.frameMax ∧
    (on dev [0x01, 0x05, 0x00, 0x00, 0xFF, 0x00, 0x8C, 0x3A]).pending =
      .single (.frameIn [0x01, 0x05, 0x00, 0x00, 0xFF, 0x00, 0x8C, 0x3A]) :: [] := by decide +kernel

/-- TcpFrameIsServedOrDropped: lengths 11 (V-TT1) and 12 (V-TT2). -/
theorem witness_tcp_frames :
    tcp.cfg.transport = .tcp ∧ tcp.started = true ∧ 12 ≤ tcp.cfg.frameMax ∧
    ([0x12, 0x3F, 0, 0, 0, 5, 1, 3, 0, 0, 0] : List Byte).length < 12 ∧
    12 ≤ ([0x12, 0x3E, 0xAB, 0xCD, 0x77, 0x77, 1, 3, 0, 0, 0, 1] : List Byte).length ∧
    (on tcp [0x12]).pending = .single (.frameIn [0x12]) :: [] := by decide

/-- ParseRecoversEnvelopedPdu: the shortest PDU, and both unit ids. -/
theorem witness_envelope : 5 ≤ ([0x01, 0, 0, 0, 4] : List Byte).length ∧
    ((0x01 : Byte) = 0x01 ∨ (0x01 : Byte) = 0x00) ∧ ((0x00 : Byte) = 0x01 ∨ (0x00 : Byte) = 0x00) := by decide

/-- TcpResponseRewritesLength: the longest response of R59. -/
theorem witness_tcp_response : ([0x05, 0, 1, 0xFF, 0] : List Byte).length < 65535 ∧
    ([0x05, 0, 1, 0xFF, 0] : List Byte).length ≤ 5 := by decide

/-- A device with BCAST_REPLY false. -/
def quiet : State := { dev with cfg := { Config.rtuDefault with bcastReply := false }, hdr := [0x00] }

/-- ResponseOmittedOnlyForMutedBroadcast: each alternative of the first clause, and the second clause. -/
theorem witness_muted :
    dev.cfg.bcastReply = true ∧ tcp.cfg.transport = .tcp ∧ { quiet with hdr := [0x01] }.hdr.head? ≠ some 0x00#8 ∧
    quiet.cfg.bcastReply = false ∧ quiet.cfg.transport = .rtu ∧ quiet.hdr.head? = some 0x00#8 := by decide

/-- HeaderAffectsResponseOnly, EveryRequestAnsweredOnceAndLast. -/
theorem witness_request : (Instr.flash0 1 5).isRequest = true := rfl

/-- StepRunsDecodedInstruction: the parse and the decode of one frame. -/
theorem witness_step_decodes :
    dev.parse [0x01, 0x05, 0x00, 0x00, 0xFF, 0x00, 0x8C, 0x3A] = .ok ([0x01], [0x05, 0x00, 0x00, 0xFF, 0x00]) ∧
    decode [0x05, 0x00, 0x00, 0xFF, 0x00] = .ok (.wrCoil 0x0000 0xFF00) ∧ dev.started = true ∧
    8 ≤ dev.cfg.frameMax := by
  refine ⟨?_, rfl, rfl, by decide⟩
  have h : crcOk [0x01#8, 0x05#8, 0x00#8, 0x00#8, 0xFF#8, 0x00#8, 0x8C#8, 0x3A#8] = true := by decide +kernel
  show parseRtu dev.addr [0x01, 0x05, 0x00, 0x00, 0xFF, 0x00, 0x8C, 0x3A] = _
  simp [parseRtu, rtuMinLen, h, dev, rtu]

/-- StepRunsStrobeAndReset, IdleStepHoldsState, FrameAndStrobeServedInEitherOrder: what is presented. -/
theorem witness_presented :
    { dev with pending := [.single .timeBase] }.pending = .single .timeBase :: [] ∧ dev.started = true ∧
    { dev with pending := [.single (.reset none (some 9600))] }.pending = .single (.reset none (some 9600)) :: [] ∧
    dev.pending = [] ∧ { dev with pending := [.together [0x01]] }.pending = .together [0x01] :: [] := by decide

/-- A device whose FRAME_MAX is the least that R5 allows. -/
def small : State := { dev with cfg := { Config.rtuDefault with frameMax := 17 } }

/-- StepRefusesOnlyAtTheInterface: a frame of FRAME_MAX bytes and one of a byte more, before and after the first
`Reset`. -/
theorem witness_refusals :
    small.started = true ∧ (List.replicate 17 0x00#8).length ≤ small.cfg.frameMax ∧
    small.cfg.frameMax < (List.replicate 18 0x00#8).length ∧ { small with started := false }.started = false := by
  decide
theorem witness_refused_too_long : step (on small (List.replicate 18 0x00#8)) = .refused .frameTooLong := rfl
theorem witness_refused_before_reset :
    step { dev with started := false, pending := [.single .timeBase] } = .refused .beforeFirstReset := rfl

/-- RdCoilsAnswersMaskOfCoils, RdInputsQueriesInOrderAndAnswersMask: the last item alone, and the full range. -/
theorem witness_ranges :
    1 ≤ (1#16).toNat ∧ (3#16).toNat + (1#16).toNat ≤ dev.cfg.nCoils ∧ (0#16).toNat + (4#16).toNat ≤ dev.cfg.nCoils ∧
    (3#16).toNat + (1#16).toNat ≤ dev.cfg.nInputs ∧ (0#16).toNat + (4#16).toNat ≤ dev.cfg.nInputs := by decide

/-- RdHoldAnswersDeviceAddress, second clause: one field wrong at a time. -/
theorem witness_rdhold_other : ¬((0x0000 : U16) = 0x0000#16 ∧ (2 : U16) = 1#16) ∧
    ¬((0x0001 : U16) = 0x0000#16 ∧ (1 : U16) = 1#16) := by decide

/-- WrCoilWritesOneCoil, WrCoilsWritesFullBank: the last relay, and the full bank. -/
theorem witness_coil_writes : (3#16).toNat < dev.cfg.nCoils ∧ dev.relays.length = dev.cfg.nCoils ∧
    (4#16).toNat = dev.cfg.nCoils := by decide

/-- SetAddrAppliesLegalAddress: 0, 1, 247, 248, 254 and 255, where the clauses meet. -/
theorem witness_addresses :
    (1 ≤ (0x01#8).toNat ∧ (0x01#8).toNat ≤ 247) ∧ (1 ≤ (0xF7#8).toNat ∧ (0xF7#8).toNat ≤ 247) ∧
    0xFF#8 = 0xFF#8 ∧ (0x00#8).toNat = 0 ∧ (248 ≤ (0xF8#8).toNat ∧ (0xF8#8).toNat ≤ 254) ∧
    (248 ≤ (0xFE#8).toNat ∧ (0xFE#8).toNat ≤ 254) ∧ ¬(248 ≤ (0xFF#8).toNat ∧ (0xFF#8).toNat ≤ 254) := by decide

/-- SetBaudAppliesRecognisedCode, last clause: the bytes next to the codes. -/
theorem witness_codes : (0x01#8 ≠ 0x02#8 ∧ 0x01#8 ≠ 0x03#8 ∧ 0x01#8 ≠ 0x04#8) ∧
    (0x05#8 ≠ 0x02#8 ∧ 0x05#8 ≠ 0x03#8 ∧ 0x05#8 ≠ 0x04#8) := by decide

/-- BaudCodesAndRatesCorrespond. -/
theorem witness_rates : baudCodeOf 19200#32 = some .c04 ∧ baudCodeOfByte 0x04#8 = some .c04 := by decide

/-- FlashSetsRelayAndTimer: a mode of each kind, the last relay of a bank of two and the first it does not have. -/
theorem witness_flash :
    (true = true ↔ (3#16 : U16) = 1#16 ∨ (3#16 : U16) = 3#16) ∧
    (false = true ↔ (5#16 : U16) = 1#16 ∨ (5#16 : U16) = 3#16) ∧
    (1 : Fin 4).val < tcp.cfg.nCoils ∧ tcp.cfg.nCoils ≤ (2 : Fin 4).val := by decide

/-- WrRegsOtherIsAlwaysIllegalAddress, second clause: SETADDR with one data byte. -/
theorem witness_no_subcommand : ∀ c ∈ subCommands, c.takes 0x0000 1 [2, 5] = false := by decide

/-- IllegalFunctionIsAnswered: the least, and one with bit 7 already set. -/
theorem witness_functions : 0x00#8 ∉ implementedFunctions ∧ 0x80#8 ∉ implementedFunctions ∧
    0x80 ≤ (0x80#8).toNat := by decide

/-- ExceptionsAreTabulatedAndPrecise: each exception, and none. -/
theorem witness_exceptions :
    (Instr.illegal 0x99).functionByte = some 0x99 ∧
    protocolException Config.rtuDefault (.illegal 0x99) = some .illegalFunction ∧
    (Instr.wrCoil 4 0x1234).functionByte = some 0x05 ∧
    protocolException Config.rtuDefault (.wrCoil 4 0x1234) = some .illegalAddress ∧
    protocolException Config.rtuDefault (.wrCoil 3 0x1234) = some .illegalValue ∧
    protocolException Config.rtuDefault (.wrCoil 3 0xFF00) = none := by decide

/-- WritesEchoFirstFiveBytes: one for each alternative. -/
theorem witness_echo :
    decode [0x05, 0, 3, 0xFF, 0, 0xAA] = .ok (.wrCoil 3 0xFF00) ∧ (Instr.wrCoil 3 0xFF00).writesCoils = true ∧
    protocolException Config.rtuDefault (.wrCoil 3 0xFF00) = none ∧
    (Instr.setAddr 0 0).writesAddr = true ∧ protocolException Config.rtuDefault (.setAddr 0 0) = none ∧
    (Instr.setBaud 0 9).writesBaud = true ∧ protocolException Config.rtuDefault (.setBaud 0 9) = none :=
  ⟨rfl, by decide, by decide, by decide, by decide, by decide, by decide⟩

/-- ReadAfterWriteReportsOneChange, EventsNameExistingRelaysAndInputs. -/
theorem witness_read_after_write : dev.relays.length = dev.cfg.nCoils ∧ dev.cfg.nCoils ≤ 8 ∧
    (3#16).toNat < dev.cfg.nCoils ∧ (4#16).toNat = dev.cfg.nCoils := by decide

/-- AddressChangeFiltersNextFrame: a frame of the least length that verifies, to another unit (V-WR2). -/
theorem witness_filter : dev.cfg.transport = .rtu ∧ (1 ≤ (0x05#8).toNat ∧ (0x05#8).toNat ≤ 247) ∧
    8 ≤ ([0x01, 0x03, 0x00, 0x00, 0x00, 0x01, 0x84, 0x0A] : List Byte).length ∧
    crcOk [0x01, 0x03, 0x00, 0x00, 0x00, 0x01, 0x84, 0x0A] = true := by decide +kernel

/-- FlashTogglesEveryPeriod: relay 3, with both kinds of delay (V-FL5, V-FL6). -/
theorem witness_flash_toggles : dev.relays.length = dev.cfg.nCoils ∧ (3 : Fin 4).val < dev.cfg.nCoils ∧
    (1#16 : U16) ≠ 0#16 ∧ (0#16 : U16) = 0#16 := by decide

/-- ResetInstallsStatedValues: an argument for each clause, at the limits of the address range. -/
theorem witness_reset_arguments :
    (1 ≤ (0xF7#8).toNat ∧ (0xF7#8).toNat ≤ 247) ∧
    ¬((1 ≤ (0x00#8).toNat ∧ (0x00#8).toNat ≤ 247) ∨ 0x00#8 = 0xFF#8) ∧
    ¬((1 ≤ (0xF8#8).toNat ∧ (0xF8#8).toNat ≤ 247) ∨ 0xF8#8 = 0xFF#8) ∧
    (115200#32 ≠ 4800#32 ∧ 115200#32 ≠ 9600#32 ∧ 115200#32 ≠ 19200#32) := by decide

/-- ResetStateIsResetOfAbsentValues, ResetEventMakesStateSound. -/
theorem witness_reset_parameters : dev.cfg = Config.rtuDefault ∧ dev.cfg.wf ∧ tcp.cfg.wf := by decide

/-- StepKeepsInvariant, StepSendsAtMostOneFrameLast: a strobe that toggles one timer and counts another. -/
theorem witness_invariant_step :
    { flashing (flashing dev 0 true 2 1) 1 false 0xFFFF 0xFFFF with pending := [.single .timeBase] }.Inv ∧
    step { flashing (flashing dev 0 true 2 1) 1 false 0xFFFF 0xFFFF with pending := [.single .timeBase] } =
      .next { flashing (flashing dev 0 false 2 2) 1 false 0xFFFF 0xFFFE with out := [.setRelay 0 false] } :=
  ⟨by decide, rfl⟩

/-- EachRegisterHasItsWriters: an instruction for each premise. -/
theorem witness_writers : (Instr.crcBit).writesCoils = false ∧ (Instr.tick).writesTimers = false ∧
    (Instr.wrCoil 0 0).writesCounts = false ∧ (Instr.tick).writesAddr = false ∧ (Instr.tick).writesBaud = false ∧
    (Instr.setAddr 0 5).isRequest = true ∧ (∀ start quantity, Instr.tick ≠ .rdInputs start quantity) :=
  ⟨rfl, rfl, rfl, rfl, rfl, rfl, by intros; exact nofun⟩

/-- RelaysFollowCoils. -/
theorem witness_not_reset : ∀ a b, Instr.tick ≠ .reset a b := by intros; exact nofun

end Sys2Proof.Tests
end

section
/-! The CRC sub-block (R70, R71, R74, R75): what its micro-operations, the serialiser and the check do. -/

namespace Sys2Proof.Machine

/-! ### The micro-operations -/

theorem exec_crcInit (s : State) : exec .crcInit s = .next { s with acc := crcInitValue } := rfl

theorem exec_crcBit (s : State) : exec .crcBit s = .next { s with acc := crcRound s.acc } := rfl

theorem crcRound_of_lsb_set {acc : U16} (h : acc.getLsbD 0 = true) : crcRound acc = (acc >>> 1) ^^^ 0xA001#16 :=
  if_pos h

theorem crcRound_of_lsb_clear {acc : U16} (h : acc.getLsbD 0 = false) : crcRound acc = acc >>> 1 :=
  if_neg (Bool.eq_false_iff.mp h)

/-- A logical shift brings a zero into bit 15, and the polynomial has bit 15 set, so bit 15 after a round tells
which branch was taken (R71). -/
theorem crcRound_getLsbD_fifteen (acc : U16) : (crcRound acc).getLsbD 15 = acc.getLsbD 0 := by
  have hshift : (acc >>> 1).getLsbD 15 = false := by simp
  cases h : acc.getLsbD 0 with
  | false => rw [crcRound_of_lsb_clear h, hshift]
  | true =>
    have hpoly : (0xA001#16).getLsbD 15 = true := rfl
    rw [crcRound_of_lsb_set h, BitVec.getLsbD_xor, hshift, hpoly]
    rfl

/-! ### The checksum as two bytes -/

theorem lo8_eq_ofNat (v : U16) : lo8 v = BitVec.ofNat 8 (v.toNat % 256) := by
  rw [← lo8_toNat, BitVec.ofNat_toNat, BitVec.setWidth_eq]

theorem hi8_eq_ofNat (v : U16) : hi8 v = BitVec.ofNat 8 (v.toNat / 256) := by
  rw [← hi8_toNat, BitVec.ofNat_toNat, BitVec.setWidth_eq]

/-- The checksum of a frame's trailing bytes is read low byte first. -/
theorem eq_u16be_iff (v : U16) (hi lo : Byte) : v = u16be hi lo ↔ v.toNat = lo.toNat + 256 * hi.toNat := by
  rw [← BitVec.toNat_inj, u16be_toNat]
  omega

theorem u16be_inj {hi lo hi' lo' : Byte} (h : u16be hi lo = u16be hi' lo') : hi = hi' ∧ lo = lo' := by
  constructor
  · simpa using congrArg hi8 h
  · simpa using congrArg lo8 h

/-! ### The check of a frame -/

/-- A frame of two bytes or more is some bytes and two more, and the check takes it apart there (R75). -/
theorem crcOk_append_pair (bs : List Byte) (lo hi : Byte) :
    crcOk (bs ++ [lo, hi]) = (crc16 bs == u16be hi lo) := by
  simp [crcOk]

theorem crcOk_append_pair_iff (bs : List Byte) (lo hi : Byte) :
    crcOk (bs ++ [lo, hi]) = true ↔ crc16 bs = u16be hi lo := by
  rw [crcOk_append_pair, beq_iff_eq]

/-- A checksum has one spelling in two bytes: if a frame verifies, no other two trailing bytes do. -/
theorem crcOk_append_pair_unique {bs : List Byte} {lo hi lo' hi' : Byte}
    (h : crcOk (bs ++ [lo, hi]) = true) (h' : crcOk (bs ++ [lo', hi']) = true) : lo = lo' ∧ hi = hi' := by
  rw [crcOk_append_pair_iff] at h h'
  exact (u16be_inj (h.symm.trans h')).symm

theorem crcOk_swapped_eq_false {bs : List Byte} {lo hi : Byte} (h : crcOk (bs ++ [lo, hi]) = true)
    (hne : lo ≠ hi) : crcOk (bs ++ [hi, lo]) = false :=
  Bool.eq_false_iff.mpr fun hswapped => hne (crcOk_append_pair_unique h hswapped).1

/-! ### The checksums of the rules' examples -/

/-- The write request of R73's last example; the frames of R74 and R75 carry the same bytes. -/
theorem crc16_write_request : crc16 [0x01#8, 0x05#8, 0x00#8, 0x00#8, 0xFF#8, 0x00#8] = 0x3A8C#16 := by
  decide +kernel

/-- The sequence of R74's corner case: the two bytes of its checksum are equal. -/
theorem crc16_equal_bytes : crc16 [0x00#8, 0x03#8, 0x02#8, 0x00#8, 0x01#8] = 0x4444#16 := by decide +kernel

/-- The bytes under check in R75's zero frame. -/
theorem crc16_six_zeros : crc16 (List.replicate 6 0x00#8) = 0x1B00#16 := by decide +kernel

theorem crcOk_write_request :
    crcOk ([0x01#8, 0x05#8, 0x00#8, 0x00#8, 0xFF#8, 0x00#8] ++ [0x8C#8, 0x3A#8]) = true := by
  rw [crcOk_append_pair, crc16_write_request]
  rfl

theorem crcOk_eight_zeros : crcOk (List.replicate 8 0x00#8) = false := by
  rw [List.replicate_add 6 2, List.replicate_succ (n := 1), List.replicate_one, crcOk_append_pair, crc16_six_zeros]
  rfl

/-! ### The obligations -/

/-- Settles O14: the check splits a frame before its last two bytes; the swapped bytes fail because a checksum has
one spelling, and the rule's frames follow from their checksums. -/
theorem crcCheckComparesTrailingBytes : Obligations.CrcCheckComparesTrailingBytes := by
  have hswapped := crcOk_swapped_eq_false crcOk_write_request (by decide)
  refine ⟨fun bs lo hi => ?_, fun _ _ _ => crcOk_swapped_eq_false, crcOk_eight_zeros, crc16_six_zeros,
    crcOk_write_request, hswapped⟩
  rw [Bool.eq_iff_iff, crcOk_append_pair_iff, decide_eq_true_iff, eq_u16be_iff]

/-- Settles O6. -/
theorem crcInitSetsAccumulator : Obligations.CrcInitSetsAccumulator := exec_crcInit

/-- Settles O7: the two branches of a round, and bit 15 of its result. -/
theorem crcBitIsOneRound : Obligations.CrcBitIsOneRound := by
  refine ⟨fun s => ?_, crcRound_getLsbD_fifteen, rfl, rfl, rfl, rfl, rfl⟩
  rw [exec_crcBit]
  cases h : s.acc.getLsbD 0 with
  | false => rw [crcRound_of_lsb_clear h]; rfl
  | true => rw [crcRound_of_lsb_set h]; rfl

/-- Settles O13: the two bytes of a checksum are its remainder and its quotient by 256. -/
theorem crcAppendsLowByteFirst : Obligations.CrcAppendsLowByteFirst := by
  refine ⟨fun bs => ?_, ?_, ?_⟩
  · rw [crcAppend, lo8_eq_ofNat, hi8_eq_ofNat]
  · rw [crcAppend, crc16_equal_bytes]
    rfl
  · rw [crcAppend, crc16_write_request]
    rfl

end Sys2Proof.Machine
end

section
/-! A presented frame: what a step makes of the parse, and what the RTU parse hands on (R80, R81, R88). -/

namespace Sys2Proof.Machine

/-! ### The step of a presented frame, by the parse -/

theorem State.parse_of_rtu {s : State} (h : s.cfg.transport = .rtu) (f : List Byte) :
    s.parse f = parseRtu s.addr f := by
  rw [State.parse, h]

section PresentedFrame

variable {s : State} {f : List Byte} {rest : List Stimulus}

/-- After the first `Reset`, the fetch of a presented frame is the fetch of its bytes with the event taken. -/
theorem State.fetch_of_frameIn (hstarted : s.started = true) (hpending : s.pending = .single (.frameIn f) :: rest) :
    s.fetch = State.fetchFrame { s with pending := rest } f := by
  simp [State.fetch, State.nextEvent, State.fetchEvent, hpending, hstarted]

/-- A frame the parse rejects is taken, and nothing else changes (R88). -/
theorem step_of_parse_error {why : DropReason} (hstarted : s.started = true) (hlen : f.length ≤ s.cfg.frameMax)
    (hpending : s.pending = .single (.frameIn f) :: rest) (hparse : s.parse f = .error why) :
    step s = .next { s with pending := rest } := by
  have hparse' : State.parse { s with pending := rest } f = .error why := hparse
  rw [step, State.fetch_of_frameIn hstarted hpending, State.fetchFrame, if_neg (Nat.not_lt.mpr hlen), hparse']

/-- A frame the parse accepts runs the instruction of its PDU, with its header kept (R80). -/
theorem step_of_parse_ok {hdr pdu : List Byte} (hstarted : s.started = true) (hlen : f.length ≤ s.cfg.frameMax)
    (hpending : s.pending = .single (.frameIn f) :: rest) (hparse : s.parse f = .ok (hdr, pdu)) :
    ∃ i, decode pdu = .ok i ∧ step s = exec i { s with pending := rest, hdr := hdr } := by
  have hparse' : State.parse { s with pending := rest } f = .ok (hdr, pdu) := hparse
  obtain ⟨i, hdecode⟩ := decode_of_length pdu (s.parse_pdu_length f hdr pdu hparse)
  refine ⟨i, hdecode, ?_⟩
  rw [step, State.fetch_of_frameIn hstarted hpending, State.fetchFrame, if_neg (Nat.not_lt.mpr hlen), hparse']
  simp only [hdecode]

end PresentedFrame

/-! ### The RTU parse, by the frame -/

/-- A frame that fails any one of the three checks is rejected; which check is named does not matter (R81). -/
theorem parseRtu_error_of_rejected {addr : Byte} {f : List Byte}
    (h : f.length < 8 ∨ crcOk f = false ∨ (f.head? ≠ some addr ∧ f.head? ≠ some 0x00#8)) :
    ∃ why, parseRtu addr f = .error why := by
  rcases parseRtu_cases addr f with ⟨_, e⟩ | ⟨_, _, e⟩ | ⟨_, _, _, _, e⟩ | ⟨hlen, hcrc, hunit, _⟩
  · exact ⟨_, e⟩
  · exact ⟨_, e⟩
  · exact ⟨_, e⟩
  · rcases h with hshort | hbad | ⟨haddr, hbroadcast⟩
    · omega
    · rw [hcrc] at hbad
      cases hbad
    · exact absurd hunit (not_or.mpr ⟨haddr, hbroadcast⟩)

/-- A frame that passes all three checks gives its unit id and its bytes 1 .. n-3 (R81). -/
theorem parseRtu_ok_of_accepted {addr : Byte} {f : List Byte} (hlen : 8 ≤ f.length) (hcrc : crcOk f = true)
    (hunit : f.head? = some addr ∨ f.head? = some 0x00#8) :
    parseRtu addr f = .ok (f.take 1, (f.take (f.length - 2)).drop 1) := by
  rcases parseRtu_cases addr f with ⟨hshort, _⟩ | ⟨_, hbad, _⟩ | ⟨_, _, haddr, hbroadcast, _⟩ | ⟨_, _, _, e⟩
  · omega
  · rw [hcrc] at hbad
    cases hbad
  · exact absurd hunit (not_or.mpr ⟨haddr, hbroadcast⟩)
  · exact e

/-- The envelope of R51: a unit id, the PDU, and two bytes of checksum. -/
theorem rtu_frame_split {f : List Byte} (h : 3 ≤ f.length) :
    f = f.take 1 ++ (f.take (f.length - 2)).drop 1 ++ f.drop (f.length - 2) := by
  have hunit : f.take 1 = (f.take (f.length - 2)).take 1 := by
    rw [List.take_take, Nat.min_eq_left (by omega)]
  rw [hunit, List.take_append_drop, List.take_append_drop]

theorem rtu_pdu_length (f : List Byte) : ((f.take (f.length - 2)).drop 1).length = f.length - 3 := by
  rw [List.length_drop, List.length_take]
  omega

/-! ### The obligation -/

/-- Settles O19: the parse rejects exactly the frames of the first clause, and the step follows the parse. -/
theorem rtuFrameIsServedOrDropped : Obligations.RtuFrameIsServedOrDropped := by
  intro s f rest hrtu hstarted hmax hpending
  have hparse := State.parse_of_rtu hrtu f
  constructor
  · intro hrejected
    obtain ⟨why, herr⟩ := parseRtu_error_of_rejected hrejected
    exact step_of_parse_error hstarted hmax hpending (hparse.trans herr)
  · intro hlen hcrc hunit
    have hok := parseRtu_ok_of_accepted hlen hcrc hunit
    obtain ⟨i, hdecode, hstep⟩ := step_of_parse_ok hstarted hmax hpending (hparse.trans hok)
    exact ⟨i, _, rtu_frame_split (by omega), rtu_pdu_length f, hdecode, hstep⟩

end Sys2Proof.Machine
end

section
/-! The decoder (R54 to R58, R63). A PDU of five bytes or more is a head and the bytes after it; `Reads` says
once, row by row, what the two tables R56 and R57 read from it, and every statement about the decoder is an
analysis of its rows. -/

namespace Sys2Proof.Machine

/-! ### A PDU as a head and the bytes after it -/

/-- A PDU of five bytes or more is a function byte, two 16-bit fields and the rest (R54). -/
theorem eq_pduHead_append {pdu : List Byte} (h : 5 ≤ pdu.length) :
    ∃ function a q rest, pdu = pduHead function a q ++ rest := by
  match pdu, h with
  | function :: a1 :: a0 :: q1 :: q0 :: rest, _ =>
    exact ⟨function, u16be a1 a0, u16be q1 q0, rest, by rw [pduHead_u16be]; rfl⟩

theorem decode_pduHead_append (function : Byte) (a q : U16) (rest : List Byte) :
    decode (pduHead function a q ++ rest) = .ok (decodeFields function a q rest) := by
  simp [decode, pduHead]

theorem decode_of_length_lt {pdu : List Byte} (h : pdu.length < 5) : decode pdu = .error .pduTooShort := by
  match pdu, h with
  | [], _ | [_], _ | [_, _], _ | [_, _, _], _ | [_, _, _, _], _ => rfl

theorem decode_eq_ok {pdu : List Byte} {i : Instr} (h : decode pdu = .ok i) :
    ∃ function a q rest, pdu = pduHead function a q ++ rest ∧ decodeFields function a q rest = i := by
  have hlen : 5 ≤ pdu.length := by
    by_contra hshort
    rw [decode_of_length_lt (by omega)] at h
    cases h
  obtain ⟨function, a, q, rest, rfl⟩ := eq_pduHead_append hlen
  rw [decode_pduHead_append] at h
  exact ⟨function, a, q, rest, rfl, Except.ok.inj h⟩

/-! ### The rows of the two decode tables -/

/-- The start address of the flash registers of relay `k` (R13). -/
def flashStart (k : Fin 4) : U16 := BitVec.ofNat 16 (regFlashBase + regFlashStride * k.val)

theorem encode_flashInstr (k : Fin 4) (mode delay : U16) :
    encode (flashInstr k mode delay) = some (encodeFlash k.val mode delay) := by
  match k with
  | 0 | 1 | 2 | 3 => rfl

/-- The rows of R56 and R57: the function byte, the two fields and the bytes after them that each instruction is
read from. -/
inductive Reads : Byte → U16 → U16 → List Byte → Instr → Prop where
  | rdCoils (a q : U16) (rest : List Byte) : Reads 0x01#8 a q rest (.rdCoils a q)
  | rdInputs (a q : U16) (rest : List Byte) : Reads 0x02#8 a q rest (.rdInputs a q)
  | rdHold (a q : U16) (rest : List Byte) : Reads 0x03#8 a q rest (.rdHold a q)
  | wrCoil (a q : U16) (rest : List Byte) : Reads 0x05#8 a q rest (.wrCoil a q)
  | wrCoils (a q : U16) (rest : List Byte) : Reads 0x0F#8 a q rest (.wrCoils a q rest[0]? rest[1]?)
  | setAddr (d0 d1 : Byte) (more : List Byte) : Reads 0x10#8 regAddr 1#16 (2#8 :: d0 :: d1 :: more) (.setAddr d0 d1)
  | setBaud (d0 d1 : Byte) (more : List Byte) : Reads 0x10#8 regBaud 1#16 (2#8 :: d0 :: d1 :: more) (.setBaud d0 d1)
  | flash (k : Fin 4) (d0 d1 d2 d3 : Byte) (more : List Byte) :
      Reads 0x10#8 (flashStart k) 2#16 (4#8 :: d0 :: d1 :: d2 :: d3 :: more)
        (flashInstr k (u16be d0 d1) (u16be d2 d3))
  | wrRegsOther (a q : U16) (rest : List Byte) (h : ∀ c ∈ subCommands, c.takes a q rest = false) :
      Reads 0x10#8 a q rest (.wrRegsOther a q rest)
  | illegal (function : Byte) (a q : U16) (rest : List Byte) (h : function ∉ implementedFunctions) :
      Reads function a q rest (.illegal function)

/-- A row of R57 takes the bytes that begin with its byte count and as much data as it needs. -/
theorem subCommand_takes_iff (c : SubCommand) (a q : U16) (rest : List Byte) :
    c.takes a q rest = true ↔
      a = c.start ∧ q = c.quantity ∧ rest.head? = some c.byteCount ∧ c.data + 1 ≤ rest.length := by
  simp [SubCommand.takes, and_assoc]

/-- No row of R57 takes a request without a byte count and two data bytes. -/
theorem subCommand_not_takes_of_short {a q : U16} {rest : List Byte} (h : rest.length < 3) :
    ∀ c ∈ subCommands, c.takes a q rest = false := by
  intro c hc
  have hdata : 2 ≤ c.data := by
    revert c
    decide
  refine Bool.eq_false_iff.mpr fun htakes => ?_
  obtain ⟨_, _, _, hlen⟩ := (subCommand_takes_iff c a q rest).mp htakes
  omega

/-- The second-level decode reads what its rows say: a sub-command where a row of R57 takes the bytes, and
WRREGS.OTHER where none does. -/
theorem reads_decodeWrRegs (a q : U16) (rest : List Byte) : Reads 0x10#8 a q rest (decodeWrRegs a q rest) := by
  unfold decodeWrRegs
  split
  next bc d0 d1 more =>
    split
    next hpair =>
      obtain ⟨rfl, rfl⟩ := hpair
      split
      next ha => subst ha; exact .setAddr d0 d1 more
      split
      next ha => subst ha; exact .setBaud d0 d1 more
      next haddr hbaud => exact .wrRegsOther _ _ _ (by simp_all [subCommands, SubCommand.takes, regAddr, regBaud])
    next hpair =>
      split
      next hquad =>
        obtain ⟨rfl, rfl⟩ := hquad
        split
        next d2 d3 more =>
          split
          next ha => subst ha; exact .flash 0 d0 d1 d2 d3 more
          split
          next ha => subst ha; exact .flash 1 d0 d1 d2 d3 more
          split
          next ha => subst ha; exact .flash 2 d0 d1 d2 d3 more
          split
          next ha => subst ha; exact .flash 3 d0 d1 d2 d3 more
          next h0 h1 h2 h3 => exact .wrRegsOther _ _ _ (by simp [subCommands, SubCommand.takes, h0, h1, h2, h3])
        next hmore => exact .wrRegsOther _ _ _ (by
            match more, hmore with
            | [], _ | [_], _ => simp [subCommands, SubCommand.takes]
            | d2 :: d3 :: tail, h => exact absurd rfl (h d2 d3 tail))
      next hquad => exact .wrRegsOther _ _ _ (by simp [subCommands, SubCommand.takes]; grind)
  next hrest => exact .wrRegsOther _ _ _ (subCommand_not_takes_of_short (by
      match rest, hrest with
      | [], _ | [_], _ | [_, _], _ => simp
      | bc :: d0 :: d1 :: more, h => exact absurd rfl (h bc d0 d1 more)))

theorem function_cases (function : Byte) :
    function = 0x01#8 ∨ function = 0x02#8 ∨ function = 0x03#8 ∨ function = 0x05#8 ∨ function = 0x0F#8 ∨
      function = 0x10#8 ∨ function ∉ implementedFunctions := by
  simp only [implementedFunctions, List.mem_cons, List.not_mem_nil, or_false]
  tauto

theorem decodeFields_of_not_implemented {function : Byte} (h : function ∉ implementedFunctions) (a q : U16)
    (rest : List Byte) : decodeFields function a q rest = .illegal function := by
  simp only [implementedFunctions, List.mem_cons, List.not_mem_nil, or_false, not_or] at h
  obtain ⟨h1, h2, h3, h5, hF, h10⟩ := h
  simp only [decodeFields, h1, h2, h3, h5, hF, h10, if_false]

/-- The decoder reads some row from every head and rest (R56). -/
theorem reads_decodeFields (function : Byte) (a q : U16) (rest : List Byte) :
    Reads function a q rest (decodeFields function a q rest) := by
  rcases function_cases function with rfl | rfl | rfl | rfl | rfl | rfl | h
  · exact .rdCoils a q rest
  · exact .rdInputs a q rest
  · exact .rdHold a q rest
  · exact .wrCoil a q rest
  · exact .wrCoils a q rest
  · exact reads_decodeWrRegs a q rest
  · rw [decodeFields_of_not_implemented h]
    exact .illegal function a q rest h

/-- A row of R57 that takes the bytes is read as its sub-command, so WRREGS.OTHER is left where none does. -/
theorem decodeWrRegs_of_not_taken {a q : U16} {rest : List Byte}
    (h : ∀ c ∈ subCommands, c.takes a q rest = false) : decodeWrRegs a q rest = .wrRegsOther a q rest := by
  have hreads := reads_decodeWrRegs a q rest
  generalize decodeWrRegs a q rest = i at hreads
  cases hreads with
  | setAddr d0 d1 more => simp [subCommands, SubCommand.takes, regAddr] at h
  | setBaud d0 d1 more => simp [subCommands, SubCommand.takes, regBaud] at h
  | flash k d0 d1 d2 d3 more =>
    match k with
    | 0 | 1 | 2 | 3 => simp [subCommands, SubCommand.takes, flashStart, regFlashBase, regFlashStride] at h
  | wrRegsOther => rfl
  | illegal _ _ _ _ hnot => exact absurd hnot (by decide)

/-- The rows exclude each other: what a row reads is what the decoder reads. -/
theorem decodeFields_eq_of_reads {function : Byte} {a q : U16} {rest : List Byte} {i : Instr}
    (h : Reads function a q rest i) : decodeFields function a q rest = i := by
  cases h with
  | flash k =>
    match k with
    | 0 | 1 | 2 | 3 => rfl
  | wrRegsOther _ _ _ h => exact decodeWrRegs_of_not_taken h
  | illegal _ _ _ _ h => exact decodeFields_of_not_implemented h a q rest
  | rdCoils | rdInputs | rdHold | wrCoil | wrCoils | setAddr | setBaud => rfl

/-- What the decoder reads from a PDU, a row reads from its head and rest. -/
theorem reads_of_decode {pdu : List Byte} {i : Instr} (h : decode pdu = .ok i) :
    ∃ function a q rest, pdu = pduHead function a q ++ rest ∧ Reads function a q rest i := by
  obtain ⟨function, a, q, rest, rfl, rfl⟩ := decode_eq_ok h
  exact ⟨function, a, q, rest, rfl, reads_decodeFields function a q rest⟩

theorem decode_of_reads {function : Byte} {a q : U16} {rest : List Byte} {i : Instr}
    (h : Reads function a q rest i) : decode (pduHead function a q ++ rest) = .ok i := by
  rw [decode_pduHead_append, decodeFields_eq_of_reads h]

/-! ### What the rows have in common -/

section Rows

variable {function : Byte} {a q : U16} {rest : List Byte} {i : Instr}

theorem Reads.isRequest (h : Reads function a q rest i) : i.isRequest = true := by
  cases h with
  | flash k =>
    match k with
    | 0 | 1 | 2 | 3 => rfl
  | _ => rfl

theorem Reads.functionByte (h : Reads function a q rest i) : i.functionByte = some function := by
  cases h with
  | flash k =>
    match k with
    | 0 | 1 | 2 | 3 => rfl
  | _ => rfl

theorem Reads.wf (h : Reads function a q rest i) : i.wf = true := by
  cases h with
  | flash k =>
    match k with
    | 0 | 1 | 2 | 3 => rfl
  | wrCoils =>
    cases rest with
    | nil => rfl
    | cons byteCount rest => rfl
  | wrRegsOther _ _ _ h => simpa [Instr.wf] using h
  | illegal _ _ _ _ h => simpa [Instr.wf] using h
  | rdCoils | rdInputs | rdHold | wrCoil | setAddr | setBaud => rfl

/-- The encoding of what a row reads is the head and the part of the rest that the row looks at. -/
theorem Reads.encode_append (h : Reads function a q rest i) :
    (∃ function, i = .illegal function) ∨
      ∃ e surplus, encode i = some (pduHead function a q ++ e) ∧ rest = e ++ surplus := by
  cases h with
  | rdCoils | rdInputs | rdHold | wrCoil => exact .inr ⟨[], rest, by simp [encode], rfl⟩
  | wrCoils =>
    refine .inr ⟨rest[0]?.toList ++ rest[1]?.toList, rest.drop 2, by simp [encode], ?_⟩
    match rest with
    | [] | [_] | _ :: _ :: _ => rfl
  | setAddr d0 d1 more | setBaud d0 d1 more => exact .inr ⟨[2#8, d0, d1], more, rfl, rfl⟩
  | flash k d0 d1 d2 d3 more =>
    refine .inr ⟨[4#8, d0, d1, d2, d3], more, ?_, rfl⟩
    rw [encode_flashInstr, encodeFlash, hi8_u16be, lo8_u16be, hi8_u16be, lo8_u16be]
    rfl
  | wrRegsOther => exact .inr ⟨rest, [], rfl, by simp⟩
  | illegal => exact .inl ⟨_, rfl⟩

end Rows

theorem reads_encodeFlash (k : Fin 4) (mode delay : U16) :
    Reads 0x10#8 (flashStart k) 2#16 [4#8, hi8 mode, lo8 mode, hi8 delay, lo8 delay] (flashInstr k mode delay) := by
  simpa only [u16be_hi8_lo8] using Reads.flash k (hi8 mode) (lo8 mode) (hi8 delay) (lo8 delay) []

/-- Every well-formed request is read from its own encoding by its row. -/
theorem reads_encode {i : Instr} (hwf : i.wf = true) (hreq : i.isRequest = true) :
    ∃ function a q rest, encode i = some (pduHead function a q ++ rest) ∧ Reads function a q rest i := by
  cases i with
  | rdCoils start quantity => exact ⟨_, start, quantity, [], by simp [encode], .rdCoils ..⟩
  | rdInputs start quantity => exact ⟨_, start, quantity, [], by simp [encode], .rdInputs ..⟩
  | rdHold start quantity => exact ⟨_, start, quantity, [], by simp [encode], .rdHold ..⟩
  | wrCoil address value => exact ⟨_, address, value, [], by simp [encode], .wrCoil ..⟩
  | wrCoils start quantity byteCount d0 =>
    match byteCount, d0, hwf with
    | none, none, _ => exact ⟨_, start, quantity, [], rfl, .wrCoils _ _ []⟩
    | some count, none, _ => exact ⟨_, start, quantity, [count], rfl, .wrCoils _ _ [count]⟩
    | some count, some d, _ => exact ⟨_, start, quantity, [count, d], rfl, .wrCoils _ _ [count, d]⟩
  | setAddr d0 d1 => exact ⟨_, _, _, [2#8, d0, d1], rfl, .setAddr d0 d1 []⟩
  | setBaud d0 d1 => exact ⟨_, _, _, [2#8, d0, d1], rfl, .setBaud d0 d1 []⟩
  | flash0 mode delay => exact ⟨_, _, _, _, rfl, reads_encodeFlash 0 mode delay⟩
  | flash1 mode delay => exact ⟨_, _, _, _, rfl, reads_encodeFlash 1 mode delay⟩
  | flash2 mode delay => exact ⟨_, _, _, _, rfl, reads_encodeFlash 2 mode delay⟩
  | flash3 mode delay => exact ⟨_, _, _, _, rfl, reads_encodeFlash 3 mode delay⟩
  | wrRegsOther start quantity rest =>
    exact ⟨_, start, quantity, rest, rfl, .wrRegsOther _ _ _ (by simpa [Instr.wf] using hwf)⟩
  | illegal function =>
    exact ⟨function, 0#16, 0#16, [], by simp [encode], .illegal _ _ _ _ (by simpa [Instr.wf] using hwf)⟩
  | tick | reset | crcInit | crcBit | crcByte => cases hreq

/-! ### The machine-readable table -/

/-- A mask byte 0xFF keeps the byte under it. -/
theorem and_0xFF (b : Byte) : b &&& 0xFF#8 = b := BitVec.and_allOnes

theorem opcodeRow_takes_iff (r : OpcodeRow) (pdu : List Byte) :
    r.takes pdu = true ↔ r.minPduLen ≤ pdu.length ∧ List.zipWith (· &&& ·) pdu r.mask = r.pattern := by
  simp [OpcodeRow.takes]

/-- A row on the function code looks at the function byte only (R63). -/
theorem onFunction_takes (mnemonic : String) (code function : Byte) (a q : U16) (rest : List Byte) :
    (OpcodeRow.onFunction mnemonic code).takes (pduHead function a q ++ rest) = (function == code) := by
  simp [OpcodeRow.takes, OpcodeRow.onFunction, pduHead, and_0xFF]

theorem hi8_lo8_inj (v w : U16) : hi8 v = hi8 w ∧ lo8 v = lo8 w ↔ v = w := by
  constructor
  · rintro ⟨hhi, hlo⟩
    rw [← u16be_hi8_lo8 v, hhi, hlo, u16be_hi8_lo8]
  · rintro rfl
    exact ⟨rfl, rfl⟩

/-- The row of the machine-readable table that stands for a row of R57. -/
def OpcodeRow.onSubCommand (mnemonic : String) (c : SubCommand) : OpcodeRow :=
  .onTriple mnemonic (hi8 c.start) (lo8 c.start) (hi8 c.quantity) (lo8 c.quantity) c.byteCount (c.data + 6)

/-- It takes a function 0x10 request exactly where the row of R57 does. -/
theorem onSubCommand_takes (mnemonic : String) (c : SubCommand) (function : Byte) (a q : U16) (rest : List Byte) :
    (OpcodeRow.onSubCommand mnemonic c).takes (pduHead function a q ++ rest) =
      (function == 0x10#8 && c.takes a q rest) := by
  cases rest with
  | nil => simp [OpcodeRow.takes, OpcodeRow.onSubCommand, OpcodeRow.onTriple, pduHead, SubCommand.takes]
  | cons b rest =>
    rw [Bool.eq_iff_iff, Bool.and_eq_true, opcodeRow_takes_iff, subCommand_takes_iff, ← hi8_lo8_inj a,
      ← hi8_lo8_inj q]
    simp only [OpcodeRow.onSubCommand, OpcodeRow.onTriple, pduHead, List.cons_append,
      List.nil_append, List.zipWith_cons_cons, List.zipWith_nil_right, and_0xFF, List.length_cons, List.head?_cons,
      beq_iff_eq, List.cons.injEq, and_true, Option.some.injEq]
    have hlen : c.data + 6 ≤ rest.length + 1 + 1 + 1 + 1 + 1 + 1 ↔ c.data + 1 ≤ rest.length + 1 := by omega
    rw [hlen]
    tauto

/-- The rows that one function code decides. -/
def functionRows : List OpcodeRow :=
  [.onFunction "RDCOILS" 0x01#8, .onFunction "RDINPUTS" 0x02#8, .onFunction "RDHOLD" 0x03#8,
   .onFunction "WRCOIL" 0x05#8, .onFunction "WRCOILS" 0x0F#8]

/-- The rows of the sub-commands of function 0x10. -/
def subCommandRows : List OpcodeRow :=
  List.zipWith OpcodeRow.onSubCommand ["SETADDR", "SETBAUD", "FLASH.0", "FLASH.1", "FLASH.2", "FLASH.3"] subCommands

/-- The table of R63 is the table of R56, that of R57, and the two rows for what is left. -/
theorem opcodeRows_eq :
    opcodeRows = functionRows ++ (subCommandRows ++
      [⟨"WRREGS.OTHER", [0x10#8], [0xFF#8], 5, 1⟩, ⟨"ILLEGAL", [0x00#8], [0x00#8], 5, 2⟩]) := rfl

theorem functionRows_find?_eq_none {function : Byte} (a q : U16) (rest : List Byte)
    (h : function ∉ [0x01#8, 0x02#8, 0x03#8, 0x05#8, 0x0F#8]) :
    functionRows.find? (fun r => r.takes (pduHead function a q ++ rest)) = none := by
  simpa [functionRows, onFunction_takes] using h

theorem subCommandRows_find?_eq_none {function : Byte} {a q : U16} {rest : List Byte}
    (h : function = 0x10#8 → ∀ c ∈ subCommands, c.takes a q rest = false) :
    subCommandRows.find? (fun r => r.takes (pduHead function a q ++ rest)) = none := by
  rw [List.find?_eq_none]
  intro r hr
  obtain ⟨j, hj, rfl⟩ := List.getElem_of_mem hr
  simp only [subCommandRows, List.getElem_zipWith, onSubCommand_takes, Bool.and_eq_true, beq_iff_eq]
  rintro ⟨hfunction, htakes⟩
  rw [h hfunction _ (List.getElem_mem _)] at htakes
  cases htakes

/-- The first row of the table that takes a request is that of what is read from it. -/
theorem Reads.opcodeRow {function : Byte} {a q : U16} {rest : List Byte} {i : Instr} (h : Reads function a q rest i) :
    (opcodeRows.find? fun r => r.takes (pduHead function a q ++ rest)).map OpcodeRow.mnemonic = some i.mnemonic := by
  rw [opcodeRows_eq, List.find?_append]
  cases h with
  | rdCoils | rdInputs | rdHold | wrCoil | wrCoils =>
    simp only [functionRows, List.find?_cons, onFunction_takes]
    rfl
  | setAddr | setBaud =>
    rw [functionRows_find?_eq_none _ _ _ (by decide), Option.none_or, List.find?_append]
    simp only [subCommandRows, subCommands, List.zipWith_cons_cons, List.find?_cons, onSubCommand_takes]
    rfl
  | flash k =>
    rw [functionRows_find?_eq_none _ _ _ (by decide), Option.none_or, List.find?_append]
    simp only [subCommandRows, subCommands, List.zipWith_cons_cons, List.find?_cons, onSubCommand_takes]
    match k with
    | 0 | 1 | 2 | 3 => rfl
  | wrRegsOther _ _ _ h =>
    rw [functionRows_find?_eq_none _ _ _ (by decide), Option.none_or, List.find?_append,
      subCommandRows_find?_eq_none fun _ => h, Option.none_or]
    simp [OpcodeRow.takes, pduHead, Instr.mnemonic]
  | illegal _ _ _ _ h =>
    simp only [implementedFunctions, List.mem_cons, List.not_mem_nil, or_false, not_or] at h
    obtain ⟨h1, h2, h3, h5, hF, h10⟩ := h
    rw [functionRows_find?_eq_none _ _ _ (by simp [h1, h2, h3, h5, hF]), Option.none_or, List.find?_append,
      subCommandRows_find?_eq_none fun hfunction => absurd hfunction h10, Option.none_or]
    simp [OpcodeRow.takes, pduHead, Instr.mnemonic, and_0xFF, h10]

/-! ### The obligations -/

/-- Settles O1: every well-formed request is read from its own encoding by its row, and the decoder reads what the
rows read. -/
theorem decodeEncodeRequest : Obligations.DecodeEncodeRequest := by
  intro i hwf hreq
  obtain ⟨function, a, q, rest, hencode, hreads⟩ := reads_encode hwf hreq
  exact ⟨_, hencode, decode_of_reads hreads⟩

/-- Settles O2: five bytes are a head, and some row reads every head and rest. -/
theorem decodeCoversEveryPdu : Obligations.DecodeCoversEveryPdu := by
  refine fun pdu => ⟨decode_of_length_lt, fun hlen => ?_⟩
  obtain ⟨function, a, q, rest, rfl⟩ := eq_pduHead_append hlen
  have hreads := reads_decodeFields function a q rest
  exact ⟨_, decode_pduHead_append .., hreads.wf, hreads.isRequest, hreads.functionByte⟩

/-- Settles O3, row by row of what the decoder reads. -/
theorem decodeAgreesWithOpcodeTable : Obligations.DecodeAgreesWithOpcodeTable := by
  intro pdu i hdecode
  obtain ⟨function, a, q, rest, rfl, hreads⟩ := reads_of_decode hdecode
  exact hreads.opcodeRow

/-- Settles O4: a row's encoding is the head and the part of the rest it looks at. -/
theorem decodedRequestIsPrefixOfPdu : Obligations.DecodedRequestIsPrefixOfPdu := by
  intro pdu i hdecode
  obtain ⟨function, a, q, rest, rfl, hreads⟩ := reads_of_decode hdecode
  rcases hreads.encode_append with hillegal | ⟨e, surplus, hencode, rfl⟩
  · exact .inl hillegal
  · exact .inr ⟨_, surplus, hencode, (List.append_assoc ..).symm⟩

/-- Settles O5 by evaluating the decoder on each PDU. -/
theorem decodeWrittenWords : Obligations.DecodeWrittenWords :=
  ⟨rfl, rfl, rfl, rfl, rfl, rfl, rfl, rfl, rfl, rfl, rfl, rfl, rfl⟩

end Sys2Proof.Machine
end

section
/-! The checksum (R72, R73, R76). Two facts carry every law: a round is injective, since bit 15 of its result
tells which branch was taken, and a round is a plain right shift where bit 0 is clear. -/

namespace Sys2Proof.Machine

/-! ### Rounds -/

theorem crcRounds_succ (n : Nat) (acc : U16) : crcRounds (n + 1) acc = crcRound (crcRounds n acc) := by
  induction n generalizing acc with
  | zero => rfl
  | succ n ih => rw [crcRounds, ih]; rfl

/-- The tested bit and the shifted accumulator are all a round keeps, and they are all of the accumulator. -/
theorem eq_of_lsb_eq_of_shiftRight_eq {a b : U16} (hlsb : a.getLsbD 0 = b.getLsbD 0) (hshift : a >>> 1 = b >>> 1) :
    a = b := by
  apply BitVec.eq_of_getLsbD_eq
  intro i hi
  cases i with
  | zero => exact hlsb
  | succ i => simpa [Nat.add_comm] using congrArg (fun v => BitVec.getLsbD v i) hshift

theorem crcRound_injective : Function.Injective crcRound := by
  intro a b h
  have hlsb : a.getLsbD 0 = b.getLsbD 0 := by
    rw [← crcRound_getLsbD_fifteen a, ← crcRound_getLsbD_fifteen b, h]
  refine eq_of_lsb_eq_of_shiftRight_eq hlsb ?_
  cases ha : a.getLsbD 0 with
  | false => rwa [crcRound_of_lsb_clear ha, crcRound_of_lsb_clear (hlsb ▸ ha)] at h
  | true =>
    rw [crcRound_of_lsb_set ha, crcRound_of_lsb_set (hlsb ▸ ha)] at h
    exact (BitVec.xor_left_inj _).mp h

theorem crcRounds_injective (n : Nat) : Function.Injective (crcRounds n) := by
  induction n with
  | zero => exact Function.injective_id
  | succ n ih => exact ih.comp crcRound_injective

/-- Rounds only shift as long as the bits they test are clear. -/
theorem crcRounds_of_low_bits_clear {n : Nat} {acc : U16} (h : ∀ i < n, acc.getLsbD i = false) :
    crcRounds n acc = acc >>> n := by
  induction n with
  | zero => simp [crcRounds]
  | succ n ih =>
    rw [crcRounds_succ, ih fun i hi => h i (by omega), crcRound_of_lsb_clear (by simpa using h n (by omega)),
      BitVec.shiftRight_add]

/-! ### Absorbing a byte -/

theorem crcAbsorb_eq (acc : U16) (b : Byte) : crcAbsorb acc b = crcRounds 8 (acc ^^^ b.setWidth 16) := rfl

theorem crcAbsorb_left_injective (b : Byte) : Function.Injective fun acc => crcAbsorb acc b := by
  intro acc acc' h
  exact (BitVec.xor_left_inj _).mp (crcRounds_injective 8 h)

theorem crcAbsorb_right_injective (acc : U16) : Function.Injective (crcAbsorb acc) := by
  intro b b' h
  have hwide : b.setWidth 16 = b'.setWidth 16 := (BitVec.xor_right_inj _).mp (crcRounds_injective 8 h)
  simpa using congrArg (BitVec.setWidth 8) hwide

/-- The bit-serial step of R76 for bit `i` of the byte. -/
def crcSerialStep (b : Byte) (acc : U16) (i : Nat) : U16 :=
  if xor (acc.getLsbD 0) (b.getLsbD i) then (acc >>> 1) ^^^ 0xA001#16 else acc >>> 1

theorem setWidth_getLsbD (b : Byte) (i : Nat) : (b.setWidth 16).getLsbD i = b.getLsbD i := by
  rw [BitVec.getLsbD_setWidth]
  by_cases hi : i < 16
  · simp [hi]
  · simp [hi, BitVec.getLsbD_of_ge b i (by omega)]

/-- A round whose tested bit is that of the accumulator and of the byte together. -/
theorem crcRound_xor_shifted_byte (acc : U16) (b : Byte) (n : Nat) :
    crcRound (acc ^^^ (b.setWidth 16 >>> n)) = crcSerialStep b acc n ^^^ (b.setWidth 16 >>> (n + 1)) := by
  have hlsb : (acc ^^^ (b.setWidth 16 >>> n)).getLsbD 0 = xor (acc.getLsbD 0) (b.getLsbD n) := by
    rw [BitVec.getLsbD_xor, BitVec.getLsbD_ushiftRight, Nat.add_zero, setWidth_getLsbD]
  cases h : xor (acc.getLsbD 0) (b.getLsbD n) with
  | false =>
    rw [crcRound_of_lsb_clear (hlsb.trans h), crcSerialStep, h, BitVec.ushiftRight_xor_distrib, BitVec.shiftRight_add]
    rfl
  | true =>
    rw [crcRound_of_lsb_set (hlsb.trans h), crcSerialStep, h, BitVec.ushiftRight_xor_distrib, BitVec.shiftRight_add,
      if_pos rfl, BitVec.xor_assoc, BitVec.xor_assoc, BitVec.xor_comm (0xA001#16)]

/-- Rounds over an accumulator with the byte in it are serial steps with the bits not yet consumed in it. -/
theorem crcRounds_xor_byte (acc : U16) (b : Byte) (n : Nat) :
    crcRounds n (acc ^^^ b.setWidth 16) =
      (List.range n).foldl (crcSerialStep b) acc ^^^ (b.setWidth 16 >>> n) := by
  induction n with
  | zero => simp [crcRounds]
  | succ n ih =>
    rw [crcRounds_succ, ih, crcRound_xor_shifted_byte, List.range_succ, List.foldl_append]
    rfl

theorem setWidth_shiftRight_eight (b : Byte) : b.setWidth 16 >>> 8 = 0#16 := by
  apply BitVec.eq_of_getLsbD_eq
  intro i _
  rw [BitVec.getLsbD_ushiftRight, setWidth_getLsbD, BitVec.getLsbD_of_ge b _ (by omega), BitVec.getLsbD_zero]

theorem crcRounds_eq_foldl (n : Nat) (acc : U16) :
    crcRounds n acc = (List.range n).foldl (fun a _ => crcRound a) acc := by
  induction n with
  | zero => rfl
  | succ n ih => rw [crcRounds_succ, ih, List.range_succ, List.foldl_append]; rfl

/-! ### The checksum of a sequence -/

theorem crc16_append (bs cs : List Byte) : crc16 (bs ++ cs) = cs.foldl crcAbsorb (crc16 bs) :=
  List.foldl_append

theorem foldl_crcAbsorb_injective (bs : List Byte) : Function.Injective fun acc => bs.foldl crcAbsorb acc := by
  induction bs with
  | nil => exact Function.injective_id
  | cons b bs ih => exact ih.comp (crcAbsorb_left_injective b)

/-- Changing one byte of a sequence changes its checksum. -/
theorem crc16_ne_of_byte_ne {b b' : Byte} (h : b ≠ b') (pre post : List Byte) :
    crc16 (pre ++ b :: post) ≠ crc16 (pre ++ b' :: post) := by
  rw [crc16_append, crc16_append, List.foldl_cons, List.foldl_cons]
  exact fun heq => h (crcAbsorb_right_injective _ (foldl_crcAbsorb_injective post heq))

/-- Eight rounds bring the high byte down where the low byte is clear. -/
theorem crcRounds_high_byte (hi : Byte) : crcRounds 8 (u16be hi 0#8) = hi.setWidth 16 := by
  rw [crcRounds_of_low_bits_clear]
  · apply BitVec.eq_of_toNat_eq
    have := hi.isLt
    rw [BitVec.toNat_ushiftRight, u16be_toNat, Nat.shiftRight_eq_div_pow, BitVec.toNat_setWidth]
    simp
    omega
  · intro i hi
    rw [u16be, BitVec.getLsbD_append]
    simp [hi]

theorem u16be_xor_low (hi lo : Byte) : u16be hi 0#8 ^^^ lo.setWidth 16 = u16be hi lo := by
  apply BitVec.eq_of_getLsbD_eq
  intro i _
  rw [BitVec.getLsbD_xor, setWidth_getLsbD, u16be, u16be, BitVec.getLsbD_append, BitVec.getLsbD_append]
  by_cases h : i < 8
  · simp [h]
  · simp [h, BitVec.getLsbD_of_ge lo i (by omega)]

/-- Absorbing two bytes empties the accumulator exactly where they are its own, low byte first. -/
theorem crcAbsorb_pair_eq_zero_iff (acc : U16) (lo hi : Byte) :
    crcAbsorb (crcAbsorb acc lo) hi = 0#16 ↔ acc = u16be hi lo := by
  have hlow : crcAbsorb (u16be hi lo) lo = hi.setWidth 16 := by
    rw [crcAbsorb_eq, ← u16be_xor_low, BitVec.xor_assoc, BitVec.xor_self, BitVec.xor_zero, crcRounds_high_byte]
  have hhigh : crcAbsorb (hi.setWidth 16) hi = 0#16 := by
    rw [crcAbsorb_eq, BitVec.xor_self]
    rfl
  constructor
  · intro h
    exact crcAbsorb_left_injective lo (crcAbsorb_left_injective hi (by simp only [h, hlow, hhigh]))
  · rintro rfl
    rw [hlow, hhigh]

theorem eq_append_pair {f : List Byte} (h : 2 ≤ f.length) : ∃ bs lo hi, f = bs ++ [lo, hi] := by
  have hlen : (f.drop (f.length - 2)).length = 2 := by
    rw [List.length_drop]
    omega
  obtain ⟨lo, hi, hpair⟩ := List.length_eq_two.mp hlen
  exact ⟨f.take (f.length - 2), lo, hi, by rw [← hpair, List.take_append_drop]⟩

theorem crcOk_iff_residue {f : List Byte} (h : 2 ≤ f.length) : crcOk f = true ↔ crc16 f = 0x0000#16 := by
  obtain ⟨bs, lo, hi, rfl⟩ := eq_append_pair h
  rw [crcOk_append_pair_iff, crc16_append]
  exact (crcAbsorb_pair_eq_zero_iff (crc16 bs) lo hi).symm

@[simp] theorem crcOk_crcAppend (bs : List Byte) : crcOk (crcAppend bs) = true := by
  rw [crcAppend, crcOk_append_pair_iff, u16be_hi8_lo8]

@[simp] theorem crcAppend_length (bs : List Byte) : (crcAppend bs).length = bs.length + 2 := by
  simp [crcAppend]

/-- A frame that verifies fails verification with any one byte changed. -/
theorem crcOk_modify_eq_false {f : List Byte} (hlen : 2 ≤ f.length) (hok : crcOk f = true) {j : Nat}
    (hj : j < f.length) {g : Byte → Byte} (hg : ∀ b, g b ≠ b) : crcOk (f.modify j g) = false := by
  have hsplit : f = f.take j ++ f[j] :: f.drop (j + 1) := by
    rw [List.getElem_cons_drop, List.take_append_drop]
  have hmodify : f.modify j g = f.take j ++ g f[j] :: f.drop (j + 1) := List.modify_eq_take_cons_drop hj
  rw [crcOk_iff_residue hlen] at hok
  refine Bool.eq_false_iff.mpr fun hbad => ?_
  rw [crcOk_iff_residue (by rwa [List.length_modify]), hmodify] at hbad
  rw [hsplit] at hok
  exact crc16_ne_of_byte_ne (hg f[j]) _ _ (hbad.trans hok.symm)

theorem xor_bit_ne {k : Nat} (hk : k < 8) (b : Byte) : b ^^^ (1#8 <<< k) ≠ b := by
  intro h
  have hbit := congrArg (fun v => BitVec.getLsbD v k) h
  simp [hk] at hbit

/-! ### The micro-operations in a row -/

theorem execAll_crcBits (n : Nat) (s : State) :
    execAll (List.replicate n .crcBit) s = .next { s with acc := crcRounds n s.acc } := by
  induction n generalizing s with
  | zero => rfl
  | succ n ih => exact ih _

theorem exec_crcByte (b : Byte) (s : State) : exec (.crcByte b) s = .next { s with acc := crcAbsorb s.acc b } := rfl

theorem execAll_crcBytes (bs : List Byte) (s : State) :
    execAll (bs.map .crcByte) s = .next { s with acc := bs.foldl crcAbsorb s.acc } := by
  induction bs generalizing s with
  | nil => rfl
  | cons b bs ih => exact ih _

/-! ### The obligations -/

/-- Settles O9: an injective map of a finite type into itself is bijective. -/
theorem crcByteIsBijectiveInAccumulator : Obligations.CrcByteIsBijectiveInAccumulator := by
  refine ⟨fun b => Finite.injective_iff_bijective.mp (crcAbsorb_left_injective b), fun acc b => ?_⟩
  have hzero : (0x00#8).setWidth 16 = 0#16 := rfl
  rw [crcAbsorb_eq, crcAbsorb_eq, hzero, BitVec.xor_zero]

/-- Settles O12: CRC.INIT gives the start of the fold, and each CRC.BYTE is one step of it. -/
theorem crcMicroOperationsComputeCrc16 : Obligations.CrcMicroOperationsComputeCrc16 :=
  fun bs s => execAll_crcBytes bs { s with acc := crcInitValue }

/-- Settles O15: the two bytes appended are the checksum they are compared with. -/
theorem crcRoundTripSucceeds : Obligations.CrcRoundTripSucceeds := crcOk_crcAppend

/-- Settles O16: a flipped bit changes one byte of a frame that verifies. -/
theorem crcDetectsEverySingleBitError : Obligations.CrcDetectsEverySingleBitError := by
  intro bs j k hj hk
  exact crcOk_modify_eq_false (by simp) (crcOk_crcAppend bs) (by simpa using hj) (xor_bit_ne hk)

/-- Settles O17: absorbing its own two bytes, and no others, empties the accumulator. -/
theorem crcResidueIsZero : Obligations.CrcResidueIsZero := fun _ => crcOk_iff_residue

/-- Settles O18: after eight steps no bit of the byte is left to consume. -/
theorem crcBitSerialForm : Obligations.CrcBitSerialForm := by
  intro acc b
  rw [crcAbsorb_eq, crcRounds_xor_byte, setWidth_shiftRight_eight, BitVec.xor_zero]
  rfl

/-- Settles O8; the worked values are evaluated. -/
theorem crcByteIsXorThenEightRounds : Obligations.CrcByteIsXorThenEightRounds :=
  ⟨fun b s => ⟨crcAbsorb s.acc b, exec_crcByte b s, execAll_crcBits 8 _⟩, by decide +kernel, by decide +kernel⟩

/-- Settles O10: the first accumulator meets no round that tests a set bit; the second is a fixed point of a
round. -/
theorem crcByteZeroKeepsTwoAccumulators : Obligations.CrcByteZeroKeepsTwoAccumulators := by
  have hfixed : crcRound 0xC001#16 = 0xC001#16 := rfl
  have hrounds : ∀ n, crcRounds n 0xC001#16 = 0xC001#16 := by
    intro n
    induction n with
    | zero => rfl
    | succ n ih => rw [crcRounds_succ, ih, hfixed]
  exact ⟨crcRounds_of_low_bits_clear fun i _ => BitVec.getLsbD_zero, hrounds 8⟩

/-- Settles O11; the examples are evaluated. -/
theorem crcOfSequenceAbsorbsInOrder : Obligations.CrcOfSequenceAbsorbsInOrder :=
  ⟨rfl, fun bs b => crc16_append bs [b], by decide +kernel, by decide +kernel, by decide +kernel, by decide +kernel,
    crc16_write_request⟩

/-- Settles O59: eight rounds are a fold over eight indices that looks at none of them. -/
theorem crcByteCompletesWithAbsorbedByte : Obligations.CrcByteCompletesWithAbsorbedByte := by
  intro b s
  rw [exec_crcByte, crcAbsorb_eq, crcRounds_eq_foldl]
  rfl

end Sys2Proof.Machine
end

section
/-! Envelopes, responses and the events of a step (R43, R50 to R53, R80 to R91, R166, R182). -/

namespace Sys2Proof.Machine

/-! ### Envelopes -/

theorem parseRtu_rtuFrame {addr unitId : Byte} {pdu : List Byte} (hlen : 5 ≤ pdu.length)
    (hunit : unitId = addr ∨ unitId = 0x00#8) : parseRtu addr (rtuFrame unitId pdu) = .ok ([unitId], pdu) := by
  have hframe : rtuFrame unitId pdu = unitId :: pdu ++ [lo8 (crc16 (unitId :: pdu)), hi8 (crc16 (unitId :: pdu))] :=
    rfl
  have hflen : (rtuFrame unitId pdu).length = pdu.length + 3 := by simp [rtuFrame]
  have hok : crcOk (rtuFrame unitId pdu) = true := crcOk_crcAppend _
  rw [parseRtu_ok_of_accepted (by omega) hok (by simpa [hframe] using hunit), hflen, hframe]
  simp

theorem parseTcp_tcpFrame (transactionId protocolId : U16) (unitId : Byte) {pdu : List Byte} (hlen : 5 ≤ pdu.length) :
    ∃ hdr, parseTcp (tcpFrame transactionId protocolId unitId pdu) = .ok (hdr, pdu) ∧ hdr.length = 7 ∧
      hdr.getLast? = some unitId := by
  rcases parseTcp_cases (tcpFrame transactionId protocolId unitId pdu) with ⟨hshort, _⟩ | ⟨_, hok⟩
  · simp only [tcpFrame, List.length_append, List.length_cons, List.length_nil] at hshort
    omega
  · exact ⟨_, hok, by simp [tcpFrame], rfl⟩

/-! ### Responses -/

theorem serialiseTcp_header (b0 b1 b2 b3 b4 b5 b6 : Byte) (rsp : List Byte) :
    serialiseTcp [b0, b1, b2, b3, b4, b5, b6] rsp =
      [b0, b1, b2, b3, hi8 (BitVec.ofNat 16 (rsp.length + 1)), lo8 (BitVec.ofNat 16 (rsp.length + 1)), b6] ++ rsp := by
  simp [serialiseTcp]

theorem hi8_ofNat {n : Nat} (h : n < 65536) : hi8 (BitVec.ofNat 16 n) = BitVec.ofNat 8 (n / 256) := by
  rw [hi8_eq_ofNat, BitVec.toNat_ofNat, Nat.mod_eq_of_lt h]

theorem lo8_ofNat {n : Nat} (h : n < 65536) : lo8 (BitVec.ofNat 16 n) = BitVec.ofNat 8 (n % 256) := by
  rw [lo8_eq_ofNat, BitVec.toNat_ofNat, Nat.mod_eq_of_lt h]

theorem State.muted_iff (s : State) :
    s.muted = true ↔ s.cfg.transport = .rtu ∧ s.cfg.bcastReply = false ∧ s.hdr.head? = some 0x00#8 := by
  simp [State.muted, broadcast, and_assoc]

theorem State.responseEvents_of_muted {s : State} (h : s.muted = true) (rsp : List Byte) : s.responseEvents rsp = [] :=
  if_pos h

theorem State.responseEvents_of_not_muted {s : State} (h : ¬s.muted = true) (rsp : List Byte) :
    s.responseEvents rsp = [.frameOut (serialise s.cfg.transport s.hdr rsp)] :=
  if_neg h

/-! ### The next event -/

section NextEvent

variable {s : State} {rest : List Stimulus}

theorem State.nextEvent_of_single {e : InEvent} (h : s.pending = .single e :: rest) :
    s.nextEvent = some (e, { s with pending := rest }) := by
  simp [State.nextEvent, h]

theorem State.fetch_of_single {e : InEvent} (h : s.pending = .single e :: rest) :
    s.fetch = State.fetchEvent { s with pending := rest } e := by
  simp [State.fetch, State.nextEvent_of_single h]

theorem step_of_nil (h : s.pending = []) : step s = .next s := by
  simp [step, State.fetch, State.nextEvent, h]

theorem step_of_timeBase (h : s.pending = .single .timeBase :: rest) (hstarted : s.started = true) :
    step s = exec .tick { s with pending := rest } := by
  simp [step, State.fetch_of_single h, State.fetchEvent, hstarted]

theorem step_of_reset {a : Option Byte} {b : Option U32} (h : s.pending = .single (.reset a b) :: rest) :
    step s = exec (.reset a b) { s with pending := rest } := by
  simp [step, State.fetch_of_single h, State.fetchEvent]

/-- A frame and a strobe at one moment are the two events one after the other, in the order that is chosen (R43). -/
theorem State.fetch_of_together {f : List Byte} (h : s.pending = .together f :: rest) :
    s.fetch = State.fetch { s with
      pending := .single (.frameIn f) :: .single .timeBase :: rest, ties := s.ties + 1 } ∨
    s.fetch = State.fetch { s with
      pending := .single .timeBase :: .single (.frameIn f) :: rest, ties := s.ties + 1 } := by
  by_cases hfirst : Config.frameFirst s.ties
  · exact .inl (by simp [State.fetch, State.nextEvent, h, hfirst])
  · exact .inr (by simp [State.fetch, State.nextEvent, h, hfirst])

end NextEvent

/-! ### What the fetch can come to -/

/-- Why an event is refused: it comes before the first `Reset`, or it is a frame that is too long (R50, R182). -/
def State.Refuses (s : State) (e : InEvent) (r : Refusal) : Prop :=
  (r = .beforeFirstReset ∧ s.started = false) ∨
    (r = .frameTooLong ∧ ∃ f, e = .frameIn f ∧ s.cfg.frameMax < f.length)

/-- An event is refused, dropped, or runs an instruction; only a request has a header kept for it. -/
theorem State.fetchEvent_cases (s : State) (e : InEvent) :
    (∃ r, s.fetchEvent e = .refuse r ∧ s.Refuses e r) ∨
    (∃ why, s.fetchEvent e = .dropped why s) ∨
    (∃ i hdr, s.fetchEvent e = .run i { s with hdr := hdr } ∧ (i.isRequest = true ∨ hdr = s.hdr)) := by
  cases e with
  | reset a b => exact .inr (.inr ⟨_, s.hdr, rfl, .inr rfl⟩)
  | timeBase =>
    rcases Bool.eq_false_or_eq_true s.started with hstarted | hstarted
    · exact .inr (.inr ⟨.tick, s.hdr, if_pos hstarted, .inr rfl⟩)
    · exact .inl ⟨_, by simp [State.fetchEvent, hstarted], .inl ⟨rfl, hstarted⟩⟩
  | frameIn f =>
    rcases Bool.eq_false_or_eq_true s.started with hstarted | hstarted
    · have hfetch : s.fetchEvent (.frameIn f) = s.fetchFrame f := if_pos hstarted
      rw [hfetch]
      rcases s.fetchFrame_cases f with ⟨hlong, e⟩ | ⟨_, why, _, e⟩ | ⟨_, hdr, pdu, i, _, hdecode, e⟩
      · exact .inl ⟨_, e, .inr ⟨rfl, f, rfl, hlong⟩⟩
      · exact .inr (.inl ⟨why, e⟩)
      · obtain ⟨_, _, _, _, _, hreads⟩ := reads_of_decode hdecode
        exact .inr (.inr ⟨i, hdr, e, .inl hreads.isRequest⟩)
    · exact .inl ⟨_, by simp [State.fetchEvent, hstarted], .inl ⟨rfl, hstarted⟩⟩

/-- The frame of the event, where it is one, is what is presented next. -/
def State.Presents (s : State) (e : InEvent) : Prop :=
  ∀ f, e = .frameIn f → ∃ rest, s.pending = .single (.frameIn f) :: rest ∨ s.pending = .together f :: rest

/-- Taking an event changes what is presented and, for a tie, its count. -/
theorem State.nextEvent_cases (s : State) :
    (s.pending = [] ∧ s.nextEvent = none) ∨
    (∃ e pending ties, s.nextEvent = some (e, { s with pending := pending, ties := ties }) ∧ s.Presents e) := by
  cases hp : s.pending with
  | nil => exact .inl ⟨rfl, by simp [State.nextEvent, hp]⟩
  | cons stimulus rest =>
    refine .inr ?_
    cases stimulus with
    | single e =>
      refine ⟨e, rest, s.ties, by simp [State.nextEvent, hp], ?_⟩
      rintro f rfl
      exact ⟨rest, .inl hp⟩
    | together f =>
      by_cases hfirst : Config.frameFirst s.ties
      · refine ⟨.frameIn f, _, s.ties + 1, by simp [State.nextEvent, hp, hfirst]; rfl, ?_⟩
        rintro g ⟨⟩
        exact ⟨rest, .inr hp⟩
      · exact ⟨.timeBase, _, s.ties + 1, by simp [State.nextEvent, hp, hfirst]; rfl, by rintro g ⟨⟩⟩

/-- What a step comes to: the block is idle, the event taken is refused or dropped, or it runs an instruction. -/
theorem State.fetch_cases (s : State) :
    (s.pending = [] ∧ s.fetch = .idle) ∨
    (∃ e r, s.fetch = .refuse r ∧ s.Refuses e r ∧ s.Presents e) ∨
    (∃ why pending ties, s.fetch = .dropped why { s with pending := pending, ties := ties }) ∨
    (∃ i hdr pending ties, s.fetch = .run i { s with pending := pending, ties := ties, hdr := hdr } ∧
      (i.isRequest = true ∨ hdr = s.hdr)) := by
  rcases s.nextEvent_cases with ⟨hp, hnone⟩ | ⟨e, pending, ties, hsome, hpresents⟩
  · exact .inl ⟨hp, by rw [State.fetch, hnone]⟩
  · have hfetch : s.fetch = State.fetchEvent { s with pending := pending, ties := ties } e := by
      rw [State.fetch, hsome]
    rcases State.fetchEvent_cases { s with pending := pending, ties := ties } e with
      ⟨r, he, hrefuses⟩ | ⟨why, he⟩ | ⟨i, hdr, he, hhdr⟩
    · exact .inr (.inl ⟨e, r, hfetch.trans he, hrefuses, hpresents⟩)
    · exact .inr (.inr (.inl ⟨why, pending, ties, hfetch.trans he⟩))
    · exact .inr (.inr (.inr ⟨i, hdr, pending, ties, hfetch.trans he, hhdr⟩))

/-! ### What the step does with the fetch -/

theorem step_of_fetch_refuse {s : State} {r : Refusal} (h : s.fetch = .refuse r) : step s = .refused r := by
  rw [step, h]

theorem step_of_fetch_dropped {s t : State} {why : DropReason} (h : s.fetch = .dropped why t) : step s = .next t := by
  rw [step, h]

theorem step_of_fetch_run {s t : State} {i : Instr} (h : s.fetch = .run i t) : step s = exec i t := by
  rw [step, h]

/-- A step goes on unless its event is refused. -/
theorem step_next_or_refused (s : State) :
    (∃ t, step s = .next t) ∨ (∃ e r, step s = .refused r ∧ s.Refuses e r ∧ s.Presents e) := by
  rcases s.fetch_cases with ⟨hp, _⟩ | ⟨e, r, hf, hrefuses, hpresents⟩ | ⟨_, _, _, hf⟩ | ⟨i, _, _, _, hf, _⟩
  · exact .inl ⟨s, step_of_nil hp⟩
  · exact .inr ⟨e, r, step_of_fetch_refuse hf, hrefuses, hpresents⟩
  · exact .inl ⟨_, step_of_fetch_dropped hf⟩
  · obtain ⟨t, ht⟩ := exec_goes_on i _
    exact .inl ⟨t, (step_of_fetch_run hf).trans ht⟩

/-- Two states whose next events come to the same take the same step. -/
theorem step_eq_of_fetch_eq {s t : State} (h : s.fetch = t.fetch) (hpending : t.pending ≠ []) : step s = step t := by
  rcases t.fetch_cases with ⟨hp, _⟩ | ⟨_, _, hf, _⟩ | ⟨_, _, _, hf⟩ | ⟨_, _, _, _, hf, _⟩
  · exact absurd hp hpending
  · rw [step_of_fetch_refuse hf, step_of_fetch_refuse (h.trans hf)]
  · rw [step_of_fetch_dropped hf, step_of_fetch_dropped (h.trans hf)]
  · rw [step_of_fetch_run hf, step_of_fetch_run (h.trans hf)]

/-! ### The obligations -/

/-- Settles O20: the one check of the parse, and the step follows the parse. -/
theorem tcpFrameIsServedOrDropped : Obligations.TcpFrameIsServedOrDropped := by
  intro s f rest htcp hstarted hmax hpending
  have hparse : s.parse f = parseTcp f := by rw [State.parse, htcp]
  rcases parseTcp_cases f with ⟨hshort, herr⟩ | ⟨hlong, hok⟩
  · exact ⟨fun _ => step_of_parse_error hstarted hmax hpending (hparse.trans herr), fun hlen => by omega⟩
  · refine ⟨fun hlen => by omega, fun _ => ?_⟩
    obtain ⟨i, hdecode, hstep⟩ := step_of_parse_ok hstarted hmax hpending (hparse.trans hok)
    exact ⟨i, hdecode, by rw [List.length_drop]; omega, hstep⟩

/-- Settles O21: each envelope passes the checks of its parse and is cut where it was joined. -/
theorem parseRecoversEnvelopedPdu : Obligations.ParseRecoversEnvelopedPdu :=
  ⟨fun _ _ _ => parseRtu_rtuFrame, fun transactionId protocolId unitId _ =>
    parseTcp_tcpFrame transactionId protocolId unitId⟩

/-- Settles O22: the serialiser appends the checksum to the unit id and the response. -/
theorem rtuResponseIsCheckedFrame : Obligations.RtuResponseIsCheckedFrame := by
  intro unitId rsp
  have hframe : serialiseRtu [unitId] rsp = crcAppend (unitId :: rsp) := rfl
  rw [hframe]
  exact ⟨by simp, by simp [crcAppend], crcOk_crcAppend _⟩

/-- Settles O29: the two orders are the two events one after the other. -/
theorem frameAndStrobeServedInEitherOrder : Obligations.FrameAndStrobeServedInEitherOrder := by
  intro s f rest hpending
  rcases State.fetch_of_together hpending with hfetch | hfetch
  · exact .inl (step_eq_of_fetch_eq hfetch (List.cons_ne_nil _ _))
  · exact .inr (step_eq_of_fetch_eq hfetch (List.cons_ne_nil _ _))

/-- Settles O30: a step goes on unless its event is refused, and the reasons for that are two. -/
theorem stepRefusesOnlyAtTheInterface : Obligations.StepRefusesOnlyAtTheInterface := by
  refine ⟨fun s r hfault => ?_, fun s r hrefused => ?_, fun s hstarted hshort => ?_,
    fun s rest f hstarted hpending => ?_, fun s rest f hstarted hlong hpending => ?_⟩
  · cases r
  · rcases step_next_or_refused s with ⟨t, ht⟩ | ⟨e, r', hr, hrefuses, hpresents⟩
    · rw [ht] at hrefused
      cases hrefused
    · rw [hr] at hrefused
      cases hrefused
      rcases hrefuses with hbefore | ⟨hr, f, he, hlong⟩
      · exact .inl hbefore
      · obtain ⟨rest, hpending⟩ := hpresents f he
        exact .inr ⟨hr, f, rest, hlong, hpending⟩
  · rcases step_next_or_refused s with hnext | ⟨e, r, _, ⟨_, hnot⟩ | ⟨_, f, he, hlong⟩, hpresents⟩
    · exact hnext
    · rw [hstarted] at hnot
      cases hnot
    · obtain ⟨rest, hpending⟩ := hpresents f he
      have := hshort f rest hpending
      omega
  · rcases hpending with hp | hp
    · exact step_of_fetch_refuse (by simp [State.fetch_of_single hp, State.fetchEvent, hstarted])
    · exact step_of_fetch_refuse (by simp [State.fetch_of_single hp, State.fetchEvent, hstarted])
  · exact step_of_fetch_refuse (by
      simp [State.fetch_of_single hpending, State.fetchEvent, hstarted, State.fetchFrame, hlong])

/-- Settles O23: the two bytes of the length are its quotient and its remainder by 256. -/
theorem tcpResponseRewritesLength : Obligations.TcpResponseRewritesLength := by
  refine ⟨fun b0 b1 b2 b3 b4 b5 b6 rsp hlen => ?_, fun b0 b1 b2 b3 b4 b5 b6 rsp hlen => ?_, rfl⟩
  · rw [serialiseTcp_header, hi8_ofNat (by omega), lo8_ofNat (by omega)]
  · have hhigh : (rsp.length + 1) / 256 = 0 := by omega
    rw [serialiseTcp_header, hi8_ofNat (by omega), hhigh]
    rfl

/-- Settles O24: a response is muted where all three conditions hold, and each alternative breaks one. -/
theorem responseOmittedOnlyForMutedBroadcast : Obligations.ResponseOmittedOnlyForMutedBroadcast := by
  refine fun s rsp => ⟨fun h => State.responseEvents_of_not_muted (fun hmuted => ?_) rsp, fun hreply hrtu hhdr =>
    State.responseEvents_of_muted (s.muted_iff.mpr ⟨hrtu, hreply, hhdr⟩) rsp⟩
  obtain ⟨hrtu, hreply, hhdr⟩ := s.muted_iff.mp hmuted
  rcases h with h | h | h
  · rw [hreply] at h
    cases h
  · rw [hrtu] at h
    cases h
  · exact h hhdr

/-- Settles O26: the decoder reads one instruction only. -/
theorem stepRunsDecodedInstruction : Obligations.StepRunsDecodedInstruction := by
  intro s f hdr pdu rest i hpending hstarted hmax hparse hdecode
  obtain ⟨j, hj, hstep⟩ := step_of_parse_ok hstarted hmax hpending hparse
  rw [hdecode] at hj
  cases hj
  exact hstep

/-- Settles O27. -/
theorem stepRunsStrobeAndReset : Obligations.StepRunsStrobeAndReset :=
  ⟨fun _ _ => step_of_timeBase, fun _ _ _ _ => step_of_reset⟩

/-- Settles O28. -/
theorem idleStepHoldsState : Obligations.IdleStepHoldsState := fun _ => step_of_nil

end Sys2Proof.Machine
end

section
/-! The requests (R84, R100 to R124, R152). For each request the exception table decides: either the exception it
names is all that happens, or the request is accepted. `written`, `emitted` and `answered` say what an accepted
request writes, emits and answers; `Answers` ties them to `exec`, one lemma for each request. -/

namespace Sys2Proof.Machine

/-! ### What an accepted request does -/

/-- The slot that a flash command leaves to its relay (R136). -/
def flashedRelay (on : Bool) (delay : U16) : Relay :=
  if delay = 0#16 then { coil := on, active := false, period := 0#16, cnt := 0#16 }
  else { coil := on, active := true, period := delay, cnt := delay }

/-- The bank after a flash command of relay `k`. -/
def flashedBank (relays : List Relay) (k : Nat) (mode delay : U16) : List Relay :=
  relays.modify k fun _ => flashedRelay (flashOn mode) delay

/-- The state with what an accepted request writes; its outputs are apart. -/
def written (i : Instr) (s : State) : State :=
  match i with
  | .rdInputs _ quantity =>
    { s with answers := s.answers.drop quantity.toNat, queries := s.queries + quantity.toNat }
  | .wrCoil address value =>
    { s with relays := s.relays.modify address.toNat fun r => { r with coil := value == 0xFF00#16 } }
  | .wrCoils _ _ _ d0 =>
    { s with relays := s.relays.mapIdx fun c (r : Relay) =>
        { r with coil := (dataBits s.cfg.nCoils (d0.getD 0#8)).getD c r.coil } }
  | .setAddr _ d1 => { s with addr := if addrLegal d1 then d1 else s.addr }
  | .setBaud _ d1 => { s with baudCode := (baudCodeOfByte d1).getD s.baudCode }
  | .flash0 mode delay => { s with relays := flashedBank s.relays 0 mode delay }
  | .flash1 mode delay => { s with relays := flashedBank s.relays 1 mode delay }
  | .flash2 mode delay => { s with relays := flashedBank s.relays 2 mode delay }
  | .flash3 mode delay => { s with relays := flashedBank s.relays 3 mode delay }
  | .rdCoils _ _ | .rdHold _ _ | .wrRegsOther _ _ _ | .illegal _ => s
  | .tick | .reset _ _ | .crcInit | .crcBit | .crcByte _ => s

/-- The events of an accepted request before its response. -/
def emitted (i : Instr) (s : State) : List OutEvent :=
  match i with
  | .rdInputs start quantity => (List.range quantity.toNat).map fun j => .readInput (start.toNat + j) (s.answer j)
  | .wrCoil address value => [.setRelay address.toNat (value == 0xFF00#16)]
  | .wrCoils _ _ _ d0 => (dataBits s.cfg.nCoils (d0.getD 0#8)).mapIdx fun c v => .setRelay c v
  | .setAddr _ d1 => if addrLegal d1 then [.persistU8 .keyAddr d1] else []
  | .setBaud _ d1 => ((baudCodeOfByte d1).map fun code => OutEvent.persistU32 .keyBaud (baudRate code)).toList
  | .flash0 mode _ => [.setRelay 0 (flashOn mode)]
  | .flash1 mode _ => [.setRelay 1 (flashOn mode)]
  | .flash2 mode _ => [.setRelay 2 (flashOn mode)]
  | .flash3 mode _ => [.setRelay 3 (flashOn mode)]
  | .rdCoils _ _ | .rdHold _ _ | .wrRegsOther _ _ _ | .illegal _ => []
  | .tick | .reset _ _ | .crcInit | .crcBit | .crcByte _ => []

/-- The response PDU of an accepted request. -/
def answered (i : Instr) (s : State) : List Byte :=
  match i with
  | .rdCoils start quantity => [0x01#8, 0x01#8, pack (s.readCoils start.toNat quantity.toNat)]
  | .rdInputs _ quantity => [0x02#8, 0x01#8, pack ((List.range quantity.toNat).map s.answer)]
  | .rdHold _ _ => [0x03#8, 0x02#8, 0x00#8, s.addr]
  | .wrCoil address value => pduHead 0x05#8 address value
  | .wrCoils start quantity _ _ => pduHead 0x0F#8 start quantity
  | .setAddr _ _ => pduHead 0x10#8 regAddr 1#16
  | .setBaud _ _ => pduHead 0x10#8 regBaud 1#16
  | .flash0 _ _ => pduHead 0x10#8 (flashStart 0) 2#16
  | .flash1 _ _ => pduHead 0x10#8 (flashStart 1) 2#16
  | .flash2 _ _ => pduHead 0x10#8 (flashStart 2) 2#16
  | .flash3 _ _ => pduHead 0x10#8 (flashStart 3) 2#16
  | .wrRegsOther _ _ _ | .illegal _ => []
  | .tick | .reset _ _ | .crcInit | .crcBit | .crcByte _ => []

/-- How a request is answered: accepted where the exception table has no entry for it, else with the exception the
table gives and no other effect (R152, R156). -/
def Answers (i : Instr) (function : Byte) (s : State) : Prop :=
  (protocolException s.cfg i = none ∧ exec i s = .next ((written i s).served (emitted i s) (answered i s))) ∨
  (∃ code, protocolException s.cfg i = some code ∧ exec i s = .next (s.served [] (excPdu function code)))

section Answers

variable {i : Instr} {function : Byte} {s : State}

theorem Answers.accepted (h : Answers i function s) (hnone : protocolException s.cfg i = none) :
    exec i s = .next ((written i s).served (emitted i s) (answered i s)) := by
  rcases h with ⟨_, hexec⟩ | ⟨code, hcode, _⟩
  · exact hexec
  · rw [hnone] at hcode
    cases hcode

theorem Answers.exception (h : Answers i function s) {code : ExcCode} (hsome : protocolException s.cfg i = some code) :
    exec i s = .next (s.served [] (excPdu function code)) := by
  rcases h with ⟨hnone, _⟩ | ⟨code', hcode, hexec⟩
  · rw [hsome] at hnone
    cases hnone
  · rw [hsome] at hcode
    cases hcode
    exact hexec

end Answers

/-! ### Operations in the form of a request served -/

/-- A write of the coils from 0 on, as one update of the bank. -/
theorem State.writeCoils_zero (s : State) (vs : List Bool) :
    s.writeCoils 0 vs =
      { s with
        relays := s.relays.mapIdx fun c (r : Relay) => { r with coil := vs.getD c r.coil }
        out := s.out ++ vs.mapIdx fun c v => .setRelay c v } := by
  have hrelays : (s.writeCoils 0 vs).relays =
      s.relays.mapIdx fun c (r : Relay) => { r with coil := vs.getD c r.coil } := by
    apply List.ext_getElem?
    intro c
    rw [State.writeCoils_relays, List.getElem?_mapIdx]
    simp
  rw [State.writeCoils_frame, hrelays, State.writeCoils_out]
  simp

/-- A flash command's part on its relay, as one update of the bank. -/
theorem State.flashApply_eq (s : State) (c : Nat) (on : Bool) (delay : U16) :
    s.flashApply c on delay =
      { s with relays := s.relays.modify c fun _ => flashedRelay on delay, out := s.out ++ [.setRelay c on] } := by
  have hrelays : (s.flashApply c on delay).relays = s.relays.modify c fun _ => flashedRelay on delay :=
    s.flashApply_relays c on delay
  rw [← hrelays, ← s.flashApply_out c on delay]
  unfold State.flashApply
  split <;> rfl

theorem rangeOk_iff (start quantity : U16) (n : Nat) :
    rangeOk start quantity n = true ↔ 1 ≤ quantity.toNat ∧ start.toNat + quantity.toNat ≤ n := by
  simp [rangeOk]

theorem exec_flashInstr (k : Fin 4) (mode delay : U16) (s : State) :
    exec (flashInstr k mode delay) s = .next (flashCommand (flashStart k) mode delay s) := by
  match k with
  | 0 | 1 | 2 | 3 => rfl

/-- The start address of a flash command gives its relay back (R92). -/
theorem flashRelay_flashStart (k : Fin 4) : flashRelay (flashStart k) = k.val := by
  match k with
  | 0 | 1 | 2 | 3 => rfl

/-! ### How each request is answered -/

theorem rdCoils_answers (start quantity : U16) (s : State) : Answers (.rdCoils start quantity) 0x01#8 s := by
  by_cases h : 1 ≤ quantity.toNat ∧ start.toNat + quantity.toNat ≤ s.cfg.nCoils
  · refine .inl ⟨if_pos h, ?_⟩
    rw [exec, execRdCoils, if_pos ((rangeOk_iff ..).mpr h), State.respond_eq_served]
    rfl
  · refine .inr ⟨_, if_neg h, ?_⟩
    rw [exec, execRdCoils, if_neg (mt (rangeOk_iff ..).mp h), State.raiseExc_eq_served]

theorem rdInputs_answers (start quantity : U16) (s : State) : Answers (.rdInputs start quantity) 0x02#8 s := by
  by_cases h : 1 ≤ quantity.toNat ∧ start.toNat + quantity.toNat ≤ s.cfg.nInputs
  · refine .inl ⟨if_pos h, ?_⟩
    rw [exec, execRdInputs, if_pos ((rangeOk_iff ..).mpr h), State.readInputs_eq]
    rfl
  · refine .inr ⟨_, if_neg h, ?_⟩
    rw [exec, execRdInputs, if_neg (mt (rangeOk_iff ..).mp h), State.raiseExc_eq_served]

theorem rdHold_answers (start quantity : U16) (s : State) : Answers (.rdHold start quantity) 0x03#8 s := by
  have hregister : start = regAddr ∧ quantity = 1#16 ↔ start.toNat = 0 ∧ quantity.toNat = 1 := by
    rw [← BitVec.toNat_inj, ← BitVec.toNat_inj]
    rfl
  by_cases h : start.toNat = 0 ∧ quantity.toNat = 1
  · refine .inl ⟨if_pos h, ?_⟩
    rw [exec, execRdHold, if_pos (hregister.mpr h), State.respond_eq_served]
    rfl
  · refine .inr ⟨_, if_neg h, ?_⟩
    rw [exec, execRdHold, if_neg (mt hregister.mp h), State.raiseExc_eq_served]

theorem wrCoil_answers (address value : U16) (s : State) : Answers (.wrCoil address value) 0x05#8 s := by
  by_cases haddress : address.toNat < s.cfg.nCoils
  · have htable : protocolException s.cfg (.wrCoil address value) =
        if value.toNat = 0xFF00 ∨ value.toNat = 0x0000 then none else some .illegalValue :=
      if_neg (Nat.not_le.mpr haddress)
    rw [Answers, htable, exec, execWrCoil, if_pos haddress]
    by_cases hon : value = 0xFF00#16
    · subst hon
      exact .inl ⟨rfl, rfl⟩
    by_cases hoff : value = 0x0000#16
    · subst hoff
      exact .inl ⟨rfl, rfl⟩
    have hillegal : ¬(value.toNat = 0xFF00 ∨ value.toNat = 0x0000) := by
      rw [← BitVec.toNat_inj] at hon hoff
      exact not_or.mpr ⟨hon, hoff⟩
    refine .inr ⟨_, if_neg hillegal, ?_⟩
    rw [coilValue, if_neg hon, if_neg hoff]
    exact congrArg _ (s.raiseExc_eq_served _ _)
  · refine .inr ⟨_, if_pos (Nat.not_lt.mp haddress), ?_⟩
    rw [exec, execWrCoil, if_neg haddress, State.raiseExc_eq_served]

theorem wrCoils_answers (start quantity : U16) (byteCount d0 : Option Byte) (s : State) :
    Answers (.wrCoils start quantity byteCount d0) 0x0F#8 s := by
  match byteCount, d0 with
  | some count, some d =>
    have hbank : start = 0x0000#16 ∧ quantity.toNat = s.cfg.nCoils ∧ count = 1#8 ↔
        (some d).isSome ∧ start.toNat = 0 ∧ quantity.toNat = s.cfg.nCoils ∧ some count = some 1#8 := by
      rw [← BitVec.toNat_inj]
      simp
    by_cases h : start = 0x0000#16 ∧ quantity.toNat = s.cfg.nCoils ∧ count = 1#8
    · refine .inl ⟨if_pos (hbank.mp h), ?_⟩
      rw [exec, execWrCoils, if_pos h, State.writeCoils_zero]
      rfl
    · refine .inr ⟨_, if_neg (mt hbank.mpr h), ?_⟩
      rw [exec, execWrCoils, if_neg h, State.raiseExc_eq_served]
  | none, some _ => exact .inr ⟨_, if_neg (by simp), congrArg _ (s.raiseExc_eq_served _ _)⟩
  | none, none | some _, none => exact .inr ⟨_, rfl, congrArg _ (s.raiseExc_eq_served _ _)⟩

theorem setAddr_answers (d0 d1 : Byte) (s : State) : Answers (.setAddr d0 d1) 0x10#8 s := by
  refine .inl ⟨rfl, ?_⟩
  by_cases h : addrLegal d1
  · simp only [exec, execSetAddr, written, emitted, answered, h, if_true]
    rfl
  · simp only [exec, execSetAddr, written, emitted, answered, h, State.respond_eq_served]
    rfl

theorem setBaud_answers (d0 d1 : Byte) (s : State) : Answers (.setBaud d0 d1) 0x10#8 s := by
  refine .inl ⟨rfl, ?_⟩
  cases h : baudCodeOfByte d1 with
  | some code =>
    simp only [exec, execSetBaud, written, emitted, answered, h]
    rfl
  | none =>
    simp only [exec, execSetBaud, written, emitted, answered, h, State.respond_eq_served]
    rfl

/-- An accepted flash command, for the four relays at once. -/
theorem flash_accepted {k : Fin 4} {s : State} (mode delay : U16) (h : k.val < s.cfg.nCoils) :
    exec (flashInstr k mode delay) s =
      .next ({ s with relays := flashedBank s.relays k.val mode delay }.served [.setRelay k.val (flashOn mode)]
        (pduHead 0x10#8 (flashStart k) 2#16)) := by
  rw [exec_flashInstr, flashCommand, flashRelay_flashStart, if_pos h, State.flashApply_eq]
  rfl

/-- A flash command of a relay that the bank does not have (D18). -/
theorem flash_refused {k : Fin 4} {s : State} (mode delay : U16) (h : s.cfg.nCoils ≤ k.val) :
    exec (flashInstr k mode delay) s = .next (s.served [] (excPdu 0x10#8 .illegalAddress)) := by
  rw [exec_flashInstr, flashCommand, flashRelay_flashStart, if_neg (Nat.not_lt.mpr h), State.raiseExc_eq_served]

theorem flash_answers (k : Fin 4) (mode delay : U16) (s : State) : Answers (flashInstr k mode delay) 0x10#8 s := by
  by_cases h : s.cfg.nCoils ≤ k.val
  · refine .inr ⟨.illegalAddress, ?_, flash_refused mode delay h⟩
    match k with
    | 0 | 1 | 2 | 3 => exact if_pos h
  · have hexec := flash_accepted mode delay (Nat.not_le.mp h)
    match k with
    | 0 | 1 | 2 | 3 => exact .inl ⟨if_neg h, hexec⟩

theorem wrRegsOther_answers (start quantity : U16) (rest : List Byte) (s : State) :
    Answers (.wrRegsOther start quantity rest) 0x10#8 s :=
  .inr ⟨.illegalAddress, rfl, congrArg _ (s.raiseExc_eq_served _ _)⟩

theorem illegal_answers (function : Byte) (s : State) : Answers (.illegal function) function s :=
  .inr ⟨.illegalFunction, rfl, congrArg _ (s.raiseExc_eq_served _ _)⟩

/-- Every request is answered as the exception table says. -/
theorem answers_of_functionByte {i : Instr} {function : Byte} (h : i.functionByte = some function) (s : State) :
    Answers i function s := by
  cases i with
  | rdCoils start quantity => cases h; exact rdCoils_answers start quantity s
  | rdInputs start quantity => cases h; exact rdInputs_answers start quantity s
  | rdHold start quantity => cases h; exact rdHold_answers start quantity s
  | wrCoil address value => cases h; exact wrCoil_answers address value s
  | wrCoils start quantity byteCount d0 => cases h; exact wrCoils_answers start quantity byteCount d0 s
  | setAddr d0 d1 => cases h; exact setAddr_answers d0 d1 s
  | setBaud d0 d1 => cases h; exact setBaud_answers d0 d1 s
  | flash0 mode delay => cases h; exact flash_answers 0 mode delay s
  | flash1 mode delay => cases h; exact flash_answers 1 mode delay s
  | flash2 mode delay => cases h; exact flash_answers 2 mode delay s
  | flash3 mode delay => cases h; exact flash_answers 3 mode delay s
  | wrRegsOther start quantity rest => cases h; exact wrRegsOther_answers start quantity rest s
  | illegal function => cases h; exact illegal_answers function s
  | tick | reset | crcInit | crcBit | crcByte => cases h

end Sys2Proof.Machine
end

section
/-! What single requests do: the reads (R100 to R103), the writes of coils and registers (R110 to R124), and two
requests in a row (R42, R46). Each statement is the request's `Answers` lemma where the table gives no exception. -/

namespace Sys2Proof.Machine

/-! ### Operands -/

theorem getD_map_range (f : Nat → Bool) (n i : Nat) :
    ((List.range n).map f).getD i false = (decide (i < n) && f i) := by
  by_cases h : i < n
  · simp [h]
  · simp [h]

/-- Bit `i` of the mask of `n` items is item `i`, and 0 from `n` on (R103). -/
theorem pack_map_range_getLsbD (f : Nat → Bool) (n : Nat) {i : Nat} (h : i < 8) :
    (pack ((List.range n).map f)).getLsbD i = (decide (i < n) && f i) := by
  rw [pack_getLsbD _ _ h, getD_map_range]

theorem addrLegal_iff (v : Byte) : addrLegal v = true ↔ (1 ≤ v.toNat ∧ v.toNat ≤ 247) ∨ v = 0xFF#8 := by
  rw [addrLegal, Bool.or_eq_true, Bool.and_eq_true, decide_eq_true_iff, decide_eq_true_iff, beq_iff_eq]
  rfl

theorem flashOn_iff (mode : U16) : flashOn mode = true ↔ mode = 1#16 ∨ mode = 3#16 := by
  simp [flashOn]

theorem baudCodeOfByte_baudCodeByte (c : BaudCode) : baudCodeOfByte (baudCodeByte c) = some c := by
  cases c <;> rfl

theorem baudCodeOf_baudRate (c : BaudCode) : baudCodeOf (baudRate c) = some c := by
  cases c <;> rfl

theorem baudCodeByte_of_baudCodeOfByte {v : Byte} {c : BaudCode} (h : baudCodeOfByte v = some c) :
    baudCodeByte c = v := by
  unfold baudCodeOfByte at h
  split at h
  next hv => cases h; exact hv.symm
  split at h
  next hv => cases h; exact hv.symm
  split at h
  next hv => cases h; exact hv.symm
  next => cases h

theorem baudRate_of_baudCodeOf {rate : U32} {c : BaudCode} (h : baudCodeOf rate = some c) : baudRate c = rate := by
  unfold baudCodeOf at h
  split at h
  next hrate => cases h; exact hrate.symm
  split at h
  next hrate => cases h; exact hrate.symm
  split at h
  next hrate => cases h; exact hrate.symm
  next => cases h

theorem baudCodeOfByte_eq_none {v : Byte} (h2 : v ≠ 0x02#8) (h3 : v ≠ 0x03#8) (h4 : v ≠ 0x04#8) :
    baudCodeOfByte v = none := by
  rw [baudCodeOfByte, if_neg h2, if_neg h3, if_neg h4]

/-- The bits of a data byte written to a bank of their number (R111). -/
theorem mapIdx_dataBits {relays : List Relay} {n : Nat} (h : relays.length = n) (d : Byte) :
    (relays.mapIdx fun c (r : Relay) => { r with coil := (dataBits n d).getD c r.coil }) =
      relays.mapIdx fun c (r : Relay) => { r with coil := d.getLsbD c } := by
  apply List.ext_getElem?
  intro c
  rw [List.getElem?_mapIdx, List.getElem?_mapIdx]
  by_cases hc : c < n
  · simp [dataBits, hc]
  · rw [List.getElem?_eq_none (by omega)]
    rfl

/-- One event for each bit of the data byte, in ascending order. -/
theorem mapIdx_setRelay_dataBits (n : Nat) (d : Byte) :
    (dataBits n d).mapIdx (fun c v => OutEvent.setRelay c v) =
      (List.range n).map fun c => OutEvent.setRelay c (d.getLsbD c) := by
  apply List.ext_getElem?
  intro c
  by_cases hc : c < n
  · simp [dataBits, hc]
  · simp [dataBits, hc]

theorem pduHead_eq (function : Byte) (a q : U16) :
    pduHead function a q =
      [function, BitVec.ofNat 8 (a.toNat / 256), BitVec.ofNat 8 (a.toNat % 256),
        BitVec.ofNat 8 (q.toNat / 256), BitVec.ofNat 8 (q.toNat % 256)] := by
  simp only [pduHead, hi8_eq_ofNat, lo8_eq_ofNat]

theorem pduHead_flashStart (k : Fin 4) :
    pduHead 0x10#8 (flashStart k) 2#16 = [0x10#8, 0x00#8, BitVec.ofNat 8 (3 + 5 * k.val), 0x00#8, 0x02#8] := by
  match k with
  | 0 | 1 | 2 | 3 => rfl

/-! ### Accepted requests -/

/-- A read of coils in the bank (R100). -/
theorem exec_rdCoils_of_range {start quantity : U16} {s : State} (hpos : 1 ≤ quantity.toNat)
    (hrange : start.toNat + quantity.toNat ≤ s.cfg.nCoils) :
    exec (.rdCoils start quantity) s =
      .next (s.served [] [0x01#8, 0x01#8, pack (s.readCoils start.toNat quantity.toNat)]) :=
  (rdCoils_answers start quantity s).accepted (if_pos ⟨hpos, hrange⟩)

theorem readCoils_mask {s : State} (start n : Nat) {i : Nat} (h : i < 8) :
    (pack (s.readCoils start n)).getLsbD i = (decide (i < n) && s.coilAt (start + i)) :=
  pack_map_range_getLsbD _ n h

/-- A write of one coil of the bank (R110). -/
theorem exec_wrCoil_of_lt {address : U16} {s : State} (on : Bool) (h : address.toNat < s.cfg.nCoils) :
    exec (.wrCoil address (if on then 0xFF00#16 else 0x0000#16)) s =
      .next ({ s with relays := s.relays.modify address.toNat fun r => { r with coil := on } }.served
        [.setRelay address.toNat on] (pduHead 0x05#8 address (if on then 0xFF00#16 else 0x0000#16))) := by
  have htable : protocolException s.cfg (.wrCoil address (if on then 0xFF00#16 else 0x0000#16)) = none := by
    rw [protocolException, if_neg (Nat.not_le.mpr h)]
    cases on <;> rfl
  rw [(wrCoil_answers address _ s).accepted htable]
  cases on <;> rfl

theorem exec_setAddr_of_legal {v : Byte} (d0 : Byte) (s : State) (h : addrLegal v = true) :
    exec (.setAddr d0 v) s =
      .next ({ s with addr := v }.served [.persistU8 .keyAddr v] (pduHead 0x10#8 regAddr 1#16)) := by
  rw [(setAddr_answers d0 v s).accepted rfl, written, emitted, if_pos h, if_pos h]
  rfl

theorem exec_setAddr_of_not_legal {v : Byte} (d0 : Byte) (s : State) (h : ¬addrLegal v = true) :
    exec (.setAddr d0 v) s = .next (s.served [] (pduHead 0x10#8 regAddr 1#16)) := by
  rw [(setAddr_answers d0 v s).accepted rfl, written, emitted, if_neg h, if_neg h]
  rfl

theorem exec_setBaud_of_code {v : Byte} {code : BaudCode} (d0 : Byte) (s : State) (h : baudCodeOfByte v = some code) :
    exec (.setBaud d0 v) s =
      .next ({ s with baudCode := code }.served [.persistU32 .keyBaud (baudRate code)]
        (pduHead 0x10#8 regBaud 1#16)) := by
  rw [(setBaud_answers d0 v s).accepted rfl, written, emitted, h]
  rfl

theorem exec_setBaud_of_no_code {v : Byte} (d0 : Byte) (s : State) (h : baudCodeOfByte v = none) :
    exec (.setBaud d0 v) s = .next (s.served [] (pduHead 0x10#8 regBaud 1#16)) := by
  rw [(setBaud_answers d0 v s).accepted rfl, written, emitted, h]
  rfl

/-! ### Two requests in a row -/

/-- A coil after a write of one coil. -/
theorem State.coilAt_modify (s : State) {c : Nat} (hc : c < s.relays.length) (v : Bool) (i : Nat) :
    State.coilAt { s with relays := s.relays.modify c fun r => { r with coil := v } } i =
      if i = c then v else s.coilAt i := by
  rw [State.coilAt, State.coilAt, List.getElem?_modify]
  by_cases hi : i = c
  · subst hi
    simp [hc]
  · have hne : ¬c = i := fun e => hi e.symm
    simp [hi, hne]

/-! ### The obligations -/

/-- Settles O31: the mask packs the coils of the range. -/
theorem rdCoilsAnswersMaskOfCoils : Obligations.RdCoilsAnswersMaskOfCoils :=
  fun _ start quantity hpos hrange =>
    ⟨_, exec_rdCoils_of_range hpos hrange, fun _ => readCoils_mask start.toNat quantity.toNat⟩

/-- Settles O32: the answers are those of the queries, in their order. -/
theorem rdInputsQueriesInOrderAndAnswersMask : Obligations.RdInputsQueriesInOrderAndAnswersMask :=
  fun s start quantity hpos hrange =>
    ⟨_, (rdInputs_answers start quantity s).accepted (if_pos ⟨hpos, hrange⟩),
      fun _ => pack_map_range_getLsbD s.answer quantity.toNat⟩

/-- Settles O34: an accepted write of one coil, with its echo byte by byte. -/
theorem wrCoilWritesOneCoil : Obligations.WrCoilWritesOneCoil := by
  intro s address on h
  rw [exec_wrCoil_of_lt on h, pduHead_eq]
  cases on <;> rfl

/-- Settles O35: the bank has as many relays as the data byte gives bits. -/
theorem wrCoilsWritesFullBank : Obligations.WrCoilsWritesFullBank := by
  intro s quantity d0 hlen hquantity
  have htable : protocolException s.cfg (.wrCoils 0x0000#16 quantity (some 1#8) (some d0)) = none :=
    if_pos ⟨rfl, rfl, hquantity, rfl⟩
  have hecho : pduHead 0x0F#8 0x0000#16 quantity =
      [0x0F#8, 0x00#8, 0x00#8, BitVec.ofNat 8 (quantity.toNat / 256), BitVec.ofNat 8 (quantity.toNat % 256)] :=
    pduHead_eq _ _ _
  rw [(wrCoils_answers _ _ _ _ s).accepted htable, ← hecho, ← mapIdx_setRelay_dataBits, ← mapIdx_dataBits hlen]
  rfl

/-- Settles O36: the stated ranges are the legal addresses and the others. -/
theorem setAddrAppliesLegalAddress : Obligations.SetAddrAppliesLegalAddress := by
  refine fun s d0 v => ⟨fun hlegal => exec_setAddr_of_legal d0 s ((addrLegal_iff v).mpr hlegal), fun hrange => ?_⟩
  refine exec_setAddr_of_not_legal d0 s fun hlegal => ?_
  rcases (addrLegal_iff v).mp hlegal with h | rfl
  · omega
  · exact absurd hrange (by decide)

/-- Settles O39: a flash command is accepted where the bank has its relay and refused where it has not. -/
theorem flashSetsRelayAndTimer : Obligations.FlashSetsRelayAndTimer := by
  intro s k mode delay on hon
  have hmode : flashOn mode = on := by rw [Bool.eq_iff_iff, flashOn_iff, hon]
  refine ⟨fun hk => ?_, fun hk => flash_refused mode delay hk⟩
  rw [flash_accepted mode delay hk, pduHead_flashStart, ← hmode]
  rfl

/-- Settles O45: the two masks are taken from the bank before and after one coil is written. -/
theorem readAfterWriteReportsOneChange : Obligations.ReadAfterWriteReportsOneChange := by
  intro s c quantity hlen hmax hc hquantity
  have hrange : ∀ t : State, t.cfg = s.cfg → (0x0000#16).toNat + quantity.toNat ≤ t.cfg.nCoils := by
    intro t ht
    rw [ht, hquantity]
    simp
  refine ⟨_, _, _, exec_rdCoils_of_range (by omega) (hrange s rfl), exec_wrCoil_of_lt true hc,
    exec_rdCoils_of_range (by omega) (hrange _ rfl), fun i hi => ?_⟩
  rw [readCoils_mask _ _ hi, readCoils_mask _ _ hi]
  have hwritten := s.coilAt_modify (hlen ▸ hc) true ((0x0000#16).toNat + i)
  have hzero : (0x0000#16).toNat + i = i := Nat.zero_add i
  rw [hzero] at hwritten ⊢
  refine (congrArg _ hwritten).trans ?_
  by_cases hic : i = c.toNat
  · simp [hic, hc, hquantity]
  · simp [hic]

/-- Settles O46: the frame passes the first two checks, and the third compares with the new address. -/
theorem addressChangeFiltersNextFrame : Obligations.AddressChangeFiltersNextFrame := by
  intro s d0 v hrtu hlegal
  refine ⟨_, exec_setAddr_of_legal d0 s ((addrLegal_iff v).mpr hlegal), fun f hlen hcrc => ?_⟩
  have hparse := State.parse_of_rtu (s := { s with addr := v }.served [.persistU8 .keyAddr v]
    (pduHead 0x10#8 regAddr 1#16)) hrtu f
  rw [hparse]
  rcases parseRtu_cases v f with ⟨hshort, _⟩ | ⟨_, hbad, _⟩ | ⟨_, _, haddr, hbroadcast, e⟩ | ⟨_, _, hunit, e⟩
  · omega
  · rw [hcrc] at hbad
    cases hbad
  · exact ⟨fun _ => ⟨haddr, hbroadcast⟩, fun _ => e⟩
  · exact ⟨fun herr => (by rw [State.served_addr, e] at herr; cases herr), fun ⟨haddr, hbroadcast⟩ =>
      absurd hunit (not_or.mpr ⟨haddr, hbroadcast⟩)⟩

/-- Settles O33; the worked frames are evaluated. -/
theorem rdHoldAnswersDeviceAddress : Obligations.RdHoldAnswersDeviceAddress := by
  refine ⟨fun s => (rdHold_answers _ _ s).accepted rfl, fun s start quantity h => ?_, by decide +kernel,
    by decide +kernel, by decide +kernel⟩
  have htable : ¬(start.toNat = 0 ∧ quantity.toNat = 1) := by
    rwa [← BitVec.toNat_inj, ← BitVec.toNat_inj] at h
  exact (rdHold_answers start quantity s).exception (if_neg htable)

/-- Settles O37. -/
theorem setBaudAppliesRecognisedCode : Obligations.SetBaudAppliesRecognisedCode :=
  fun s d0 _ => ⟨exec_setBaud_of_code d0 s rfl, exec_setBaud_of_code d0 s rfl, exec_setBaud_of_code d0 s rfl,
    fun h2 h3 h4 => exec_setBaud_of_no_code d0 s (baudCodeOfByte_eq_none h2 h3 h4)⟩

/-- Settles O38. -/
theorem baudCodesAndRatesCorrespond : Obligations.BaudCodesAndRatesCorrespond :=
  ⟨rfl, rfl, rfl, fun c => ⟨baudCodeOf_baudRate c, baudCodeOfByte_baudCodeByte c⟩, fun _ _ => baudRate_of_baudCodeOf,
    fun _ _ => baudCodeByte_of_baudCodeOfByte⟩

/-- Settles O40. -/
theorem wrRegsOtherIsAlwaysIllegalAddress : Obligations.WrRegsOtherIsAlwaysIllegalAddress :=
  ⟨fun start quantity rest s => (wrRegsOther_answers start quantity rest s).exception rfl,
    fun start quantity rest h => decodeFields_eq_of_reads (.wrRegsOther start quantity rest h)⟩

/-- Settles O41. -/
theorem illegalFunctionIsAnswered : Obligations.IllegalFunctionIsAnswered := by
  refine ⟨fun function s => (illegal_answers function s).exception rfl, fun function a1 a0 q1 q0 rest h => ?_,
    fun function h => ?_, rfl, rfl⟩
  · have hreads := decode_of_reads (Reads.illegal function (u16be a1 a0) (u16be q1 q0) rest h)
    rwa [pduHead_u16be] at hreads
  · revert function
    decide

end Sys2Proof.Machine
end

section
/-! Requests as a whole (R59, R80, R90, R91, R152, R156, R163): what every accepted request has in common, and what
follows for every request from `answers_of_functionByte`. -/

namespace Sys2Proof.Machine

/-! ### What an accepted request leaves alone -/

@[simp] theorem written_hdr (i : Instr) (s : State) : (written i s).hdr = s.hdr := by cases i <;> rfl
@[simp] theorem written_cfg (i : Instr) (s : State) : (written i s).cfg = s.cfg := by cases i <;> rfl
@[simp] theorem written_out (i : Instr) (s : State) : (written i s).out = s.out := by cases i <;> rfl
@[simp] theorem written_acc (i : Instr) (s : State) : (written i s).acc = s.acc := by cases i <;> rfl
@[simp] theorem written_started (i : Instr) (s : State) : (written i s).started = s.started := by cases i <;> rfl
@[simp] theorem written_pending (i : Instr) (s : State) : (written i s).pending = s.pending := by cases i <;> rfl
@[simp] theorem written_ties (i : Instr) (s : State) : (written i s).ties = s.ties := by cases i <;> rfl

/-- The header kept for the response takes no part in what a request writes, emits and answers. -/
theorem written_of_hdr (i : Instr) (s : State) (hdr : List Byte) :
    written i { s with hdr := hdr } = { written i s with hdr := hdr } := by cases i <;> rfl

theorem emitted_of_hdr (i : Instr) (s : State) (hdr : List Byte) : emitted i { s with hdr := hdr } = emitted i s := by
  cases i <;> rfl

theorem answered_of_hdr (i : Instr) (s : State) (hdr : List Byte) :
    answered i { s with hdr := hdr } = answered i s := by
  cases i <;> rfl

/-- The response is made from the header and the parameters before the request. -/
theorem written_responseEvents (i : Instr) (s : State) (rsp : List Byte) :
    (written i s).responseEvents rsp = s.responseEvents rsp :=
  State.responseEvents_congr (written_hdr i s) (written_cfg i s) rsp

theorem emitted_isFrameOut (i : Instr) (s : State) : ∀ e ∈ emitted i s, e.isFrameOut = false := by
  cases i with
  | rdInputs => simp [emitted, OutEvent.isFrameOut]
  | wrCoils =>
    intro e he
    obtain ⟨c, hc, rfl⟩ := List.mem_mapIdx.mp he
    rfl
  | setAddr _ d1 => cases h : addrLegal d1 <;> simp [emitted, OutEvent.isFrameOut, h]
  | setBaud _ d1 => cases h : baudCodeOfByte d1 <;> simp [emitted, OutEvent.isFrameOut, h]
  | wrCoil | flash0 | flash1 | flash2 | flash3 => simp [emitted, OutEvent.isFrameOut]
  | rdCoils | rdHold | wrRegsOther | illegal | tick | reset | crcInit | crcBit | crcByte => simp [emitted]

/-! ### The response PDU -/

theorem functionByte_of_isRequest {i : Instr} (h : i.isRequest = true) : ∃ function, i.functionByte = some function := by
  cases i with
  | tick | reset | crcInit | crcBit | crcByte => cases h
  | _ => exact ⟨_, rfl⟩

/-- The response of an accepted request is its function byte, below 0x80, and one to four bytes more (R59). -/
theorem answered_eq_cons {i : Instr} {function : Byte} {cfg : Config} (hfunction : i.functionByte = some function)
    (hnone : protocolException cfg i = none) (s : State) :
    function.toNat < 0x80 ∧ ∃ rest, answered i s = function :: rest ∧ 1 ≤ rest.length ∧ rest.length ≤ 4 := by
  cases i with
  | wrRegsOther | illegal => cases hnone
  | tick | reset | crcInit | crcBit | crcByte => cases hfunction
  | _ =>
    cases hfunction
    exact ⟨by decide, _, rfl, by simp, by simp⟩

/-- The response to a write request is the head of its PDU (R59, R120). -/
theorem answered_eq_head {i : Instr} {function : Byte} {a q : U16} {rest : List Byte} {cfg : Config}
    (hreads : Reads function a q rest i) (hwrites : i.writesCoils = true ∨ i.writesAddr = true ∨ i.writesBaud = true)
    (hnone : protocolException cfg i = none) (s : State) : answered i s = pduHead function a q := by
  cases hreads with
  | rdCoils | rdInputs | rdHold => simp [Instr.writesCoils, Instr.writesAddr, Instr.writesBaud] at hwrites
  | wrCoil | wrCoils | setAddr | setBaud => rfl
  | flash k =>
    match k with
    | 0 | 1 | 2 | 3 => rfl
  | wrRegsOther | illegal => cases hnone

/-! ### The obligations -/

/-- Settles O42: each request is answered as the table says, and an accepted one with its own function byte. -/
theorem exceptionsAreTabulatedAndPrecise : Obligations.ExceptionsAreTabulatedAndPrecise := by
  intro i s function hfunction
  have hanswers := answers_of_functionByte hfunction s
  refine ⟨fun code hcode => hanswers.exception hcode, fun hnone => ?_⟩
  obtain ⟨hlow, rest, hrest, _⟩ := answered_eq_cons hfunction hnone s
  refine ⟨hlow, _, emitted i s, rest, hanswers.accepted hnone, ?_⟩
  rw [State.served_out, written_out, written_responseEvents, hrest]

/-- Settles O43, for an accepted request and for an exception. -/
theorem everyRequestAnsweredOnceAndLast : Obligations.EveryRequestAnsweredOnceAndLast := by
  intro i s hreq
  obtain ⟨function, hfunction⟩ := functionByte_of_isRequest hreq
  rcases answers_of_functionByte hfunction s with ⟨hnone, hexec⟩ | ⟨code, _, hexec⟩
  · obtain ⟨_, rest, hrest, hlo, hhi⟩ := answered_eq_cons hfunction hnone s
    refine ⟨_, emitted i s, answered i s, hexec, ?_, emitted_isFrameOut i s, ?_, ?_, rfl⟩
    · rw [State.served_out, written_out, written_responseEvents]
    · rw [hrest, List.length_cons]
      omega
    · rw [hrest, List.length_cons]
      omega
  · exact ⟨_, [], excPdu function code, hexec, rfl, nofun, by simp [excPdu], by simp [excPdu], rfl⟩

/-- Settles O44: the echo is the head of the request, and the head is the first five bytes of its PDU. -/
theorem writesEchoFirstFiveBytes : Obligations.WritesEchoFirstFiveBytes := by
  intro i s pdu hdecode hwrites hnone
  obtain ⟨function, a, q, rest, rfl, hreads⟩ := reads_of_decode hdecode
  have hhead : (pduHead function a q ++ rest).take 5 = pduHead function a q := rfl
  refine ⟨_, emitted i s, (answers_of_functionByte hreads.functionByte s).accepted hnone, ?_⟩
  rw [State.served_out, written_out, written_responseEvents, answered_eq_head hreads hwrites hnone, hhead]

/-- Settles O25: what a request writes, emits and answers is the same under both headers. -/
theorem headerAffectsResponseOnly : Obligations.HeaderAffectsResponseOnly := by
  intro i s hdr1 hdr2 hreq
  obtain ⟨function, hfunction⟩ := functionByte_of_isRequest hreq
  rcases answers_of_functionByte hfunction s with ⟨hnone, _⟩ | ⟨code, hcode, _⟩
  · have hexec : ∀ hdr, exec i { s with hdr := hdr } = .next { written i s with
        out := s.out ++ emitted i s ++ State.responseEvents { s with hdr := hdr } (answered i s), hdr := [] } := by
      intro hdr
      rw [(answers_of_functionByte hfunction { s with hdr := hdr }).accepted hnone, State.served,
        written_responseEvents, written_of_hdr, emitted_of_hdr, answered_of_hdr, written_out]
    exact ⟨{ written i s with out := s.out ++ emitted i s }, emitted i s, answered i s, rfl, hexec hdr1, hexec hdr2⟩
  · have hexec : ∀ hdr, exec i { s with hdr := hdr } = .next { s with
        out := s.out ++ State.responseEvents { s with hdr := hdr } (excPdu function code), hdr := [] } := by
      intro hdr
      rw [(answers_of_functionByte hfunction { s with hdr := hdr }).exception hcode, State.served, List.append_nil]
    exact ⟨s, [], excPdu function code, by simp, hexec hdr1, hexec hdr2⟩

end Sys2Proof.Machine
end

section
/-! The relay timers under TICK and FLASH (R135 to R141), and the `Reset` event (R22, R180, R181). -/

namespace Sys2Proof.Machine

/-! ### One strobe -/

theorem exec_tick (s : State) : exec .tick s = .next s.tickRelays := rfl

theorem expires_iff (r : Relay) : r.expires = true ↔ r.active = true ∧ r.cnt = 1#16 := by
  simp [Relay.expires]

/-- The three cases of a strobe for one relay: it toggles, it counts, or it stands (R137). -/
theorem tick_eq (r : Relay) :
    r.tick =
      if r.active = true then
        if r.cnt = 1#16 then { r with coil := !r.coil, cnt := r.period } else { r with cnt := r.cnt - 1#16 }
      else r := by
  by_cases hactive : r.active = true
  · by_cases hcnt : r.cnt = 1#16
    · simp [Relay.tick, Relay.expires, hactive, hcnt]
    · simp [Relay.tick, Relay.expires, hactive, hcnt]
  · simp [Relay.tick, Relay.expires, hactive]

/-- The event of relay `c` in a strobe, if it toggles. -/
def tickEvent (c : Nat) (r : Relay) : List OutEvent :=
  if r.active = true ∧ r.cnt = 1#16 then [.setRelay c (!r.coil)] else []

/-- The events of a strobe, by the number of the relay. -/
theorem tickEvents_eq_flatMap (rs : List Relay) :
    tickEvents 0 rs = (List.range rs.length).flatMap fun c => (rs[c]?.map (tickEvent c)).getD [] := by
  rw [tickEvents_eq, List.flatMap_def]
  congr 1
  apply List.ext_getElem?
  intro c
  by_cases hc : c < rs.length
  · simp [hc, tickEvent, expires_iff]
  · simp [hc]

/-! ### Strobes in a row -/

theorem execAll_cons_of_next {i : Instr} {s t : State} (h : exec i s = .next t) (is : List Instr) :
    execAll (i :: is) s = execAll is t := by
  rw [execAll, h]

theorem execAll_asmTicks (n : Nat) (s : State) :
    ∃ t, execAll (asmTicks n) s = .next t ∧ t.relays = s.relays.map Relay.tick^[n] := by
  induction n generalizing s with
  | zero => exact ⟨s, rfl, by simp⟩
  | succ n ih =>
    obtain ⟨t, hexec, hrelays⟩ := ih s.tickRelays
    refine ⟨t, hexec, ?_⟩
    rw [hrelays, State.tickRelays_relays, List.map_map]
    rfl

/-- A running relay `n` strobes after a flash command with the delay `p` (R140). -/
def flashPhase (on : Bool) (p : U16) (n : Nat) : Relay where
  coil   := xor on (decide (n / p.toNat % 2 = 1))
  active := true
  period := p
  cnt    := BitVec.ofNat 16 (p.toNat - n % p.toNat)

/-- The phase by whole periods and strobes within the period. -/
theorem flashPhase_eq (on : Bool) {p : U16} {r : Nat} (q : Nat) (hr : r < p.toNat) :
    flashPhase on p (p.toNat * q + r) =
      { coil := xor on (decide (q % 2 = 1)), active := true, period := p, cnt := BitVec.ofNat 16 (p.toNat - r) } := by
  have hdiv : (p.toNat * q + r) / p.toNat = q := by
    rw [Nat.mul_add_div (by omega), Nat.div_eq_of_lt hr, Nat.add_zero]
  have hmod : (p.toNat * q + r) % p.toNat = r := by
    rw [Nat.mul_add_mod, Nat.mod_eq_of_lt hr]
  rw [flashPhase, hdiv, hmod]

theorem flashPhase_zero (on : Bool) {p : U16} (hp : p ≠ 0#16) : flashPhase on p 0 = flashedRelay on p := by
  rw [flashedRelay, if_neg hp, flashPhase]
  simp

/-- A strobe is one step of the phase: it toggles and reloads at the end of a period, and counts within it. -/
theorem tick_flashPhase (on : Bool) {p : U16} (hp : p ≠ 0#16) (n : Nat) :
    (flashPhase on p n).tick = flashPhase on p (n + 1) := by
  have hpos : 0 < p.toNat := Nat.pos_of_ne_zero fun h => hp (BitVec.eq_of_toNat_eq h)
  have hr : n % p.toNat < p.toNat := Nat.mod_lt _ hpos
  have hn : p.toNat * (n / p.toNat) + n % p.toNat = n := Nat.div_add_mod n p.toNat
  generalize n / p.toNat = q at hn
  generalize n % p.toNat = r at hr hn
  subst hn
  have hlt := p.isLt
  rw [flashPhase_eq on q hr, tick_eq, if_pos rfl]
  by_cases hlast : r + 1 = p.toNat
  · have hnext : p.toNat * q + r + 1 = p.toNat * (q + 1) + 0 := by rw [Nat.mul_succ]; omega
    have hone : p.toNat - r = 1 := by omega
    have hparity : decide ((q + 1) % 2 = 1) = !decide (q % 2 = 1) := by
      rw [← decide_not, decide_eq_decide]
      omega
    rw [hnext, flashPhase_eq on (q + 1) hpos, hone, if_pos rfl, hparity, Bool.xor_not, Nat.sub_zero,
      BitVec.ofNat_toNat, BitVec.setWidth_eq]
  · have hcnt : BitVec.ofNat 16 (p.toNat - r) ≠ 1#16 := by
      intro h
      have := congrArg BitVec.toNat h
      simp only [BitVec.toNat_ofNat] at this
      omega
    have hsub : BitVec.ofNat 16 (p.toNat - r) - 1#16 = BitVec.ofNat 16 (p.toNat - (r + 1)) := by
      apply BitVec.eq_of_toNat_eq
      simp only [BitVec.toNat_sub, BitVec.toNat_ofNat]
      omega
    rw [if_neg hcnt, Nat.add_assoc, flashPhase_eq on q (by omega), hsub]

theorem tick_iterate_of_running (on : Bool) {p : U16} (hp : p ≠ 0#16) (n : Nat) :
    Relay.tick^[n] (flashedRelay on p) = flashPhase on p n := by
  induction n with
  | zero => exact (flashPhase_zero on hp).symm
  | succ n ih => rw [Function.iterate_succ_apply', ih, tick_flashPhase on hp]

theorem tick_iterate_of_static {r : Relay} (h : r.active = false) (n : Nat) : Relay.tick^[n] r = r :=
  Function.iterate_fixed (by simp [tick_eq, h]) n

/-! ### Flash commands -/

/-- A second flash command on a relay overwrites the first (R138). -/
theorem flashedBank_flashedBank (relays : List Relay) (k : Nat) (mode1 delay1 mode2 delay2 : U16) :
    flashedBank (flashedBank relays k mode1 delay1) k mode2 delay2 = flashedBank relays k mode2 delay2 :=
  List.modify_modify_eq ..

/-- The bank after a flash command, accepted or refused. -/
theorem exec_flashInstr_relays (k : Fin 4) (mode delay : U16) (s : State) :
    ∃ t, exec (flashInstr k mode delay) s = .next t ∧ t.cfg = s.cfg ∧
      t.relays = if k.val < s.cfg.nCoils then flashedBank s.relays k.val mode delay else s.relays := by
  by_cases hk : k.val < s.cfg.nCoils
  · exact ⟨_, flash_accepted mode delay hk, rfl, (if_pos hk).symm⟩
  · exact ⟨_, flash_refused mode delay (Nat.not_lt.mp hk), rfl, (if_neg hk).symm⟩

/-! ### Reset -/

theorem exec_reset (a : Option Byte) (b : Option U32) (s : State) :
    exec (.reset a b) s = .next (s.resetEvent a b) := rfl

theorem bootAddrValue_of_legal {v : Byte} (h : addrLegal v = true) : bootAddrValue (some v) = v := if_pos h

theorem bootAddrValue_of_not_legal {v : Byte} (h : ¬addrLegal v = true) : bootAddrValue (some v) = 0xFF#8 := if_neg h

/-- What `Reset` installs as the address is legal, whatever is stored (R181). -/
theorem addrLegal_bootAddrValue (a : Option Byte) : addrLegal (bootAddrValue a) = true := by
  cases a with
  | none => rfl
  | some v =>
    by_cases h : addrLegal v = true
    · rwa [bootAddrValue_of_legal h]
    · rw [bootAddrValue_of_not_legal h]
      rfl

theorem bootBaudValue_of_no_code {cfg : Config} {rate : U32} (h1 : rate ≠ 4800#32) (h2 : rate ≠ 9600#32)
    (h3 : rate ≠ 19200#32) : bootBaudValue cfg (some rate) = cfg.baudDefault := by
  rw [bootBaudValue, baudCodeOf, if_neg h1, if_neg h2, if_neg h3]
  rfl

theorem off_inv : Relay.off.Inv := by decide

/-- A bank of relays that are OFF and Static, with a legal address, is sound (R18, R22). -/
theorem sound_of_relays_off {s : State} (hcfg : s.cfg.wf) (hrelays : s.relays = List.replicate s.cfg.nCoils Relay.off)
    (haddr : addrLegal s.addr = true) : s.Sound := by
  refine ⟨hcfg, by rw [hrelays, List.length_replicate], fun r hr => ?_, haddr⟩
  rw [hrelays] at hr
  rw [List.eq_of_mem_replicate hr]
  exact off_inv

theorem resetEvent_sound {s : State} (hcfg : s.cfg.wf) (a : Option Byte) (b : Option U32) : (s.resetEvent a b).Sound :=
  sound_of_relays_off hcfg rfl (addrLegal_bootAddrValue a)

/-! ### The obligations -/

/-- Settles O47: the events and the three cases of a strobe, by the number of the relay. -/
theorem tickServesEveryRelay : Obligations.TickServesEveryRelay := by
  intro s
  refine ⟨s.relays.map Relay.tick, ?_, List.length_map _, fun c r hr => ?_⟩
  · rw [exec_tick, State.tickRelays, tickEvents_eq_flatMap]
    congr 4
    funext c
    cases s.relays[c]? <;> rfl
  · rw [List.getElem?_map, hr, Option.map_some, tick_eq]

/-- Settles O48: strobes act on each relay alone, and step the phase of the one that flashes. -/
theorem flashTogglesEveryPeriod : Obligations.FlashTogglesEveryPeriod := by
  intro s k mode delay n hlen hk
  obtain ⟨t, hexec, hrelays⟩ := execAll_asmTicks n
    ({ s with relays := flashedBank s.relays k.val mode delay }.served [.setRelay k.val (flashOn mode)]
      (pduHead 0x10#8 (flashStart k) 2#16))
  refine ⟨t, Relay.tick^[n] (flashedRelay (flashOn mode) delay), ?_, ?_, fun hdelay => ?_, fun hdelay => ?_⟩
  · rw [execAll_cons_of_next (flash_accepted mode delay hk), hexec]
  · rw [hrelays, State.served_relays, List.getElem?_map, flashedBank, List.getElem?_modify_eq,
      List.getElem?_eq_getElem (hlen ▸ hk)]
    rfl
  · rw [tick_iterate_of_running _ hdelay]
    rfl
  · rw [flashedRelay, if_pos hdelay, tick_iterate_of_static rfl]

/-- Settles O53. -/
theorem resetEventMakesStateSound : Obligations.ResetEventMakesStateSound :=
  fun s a b hcfg => ⟨_, exec_reset a b s, resetEvent_sound hcfg a b⟩

/-- Settles O49: where the bank has the relay the second command overwrites the first, else neither writes. -/
theorem secondFlashReplacesFirst : Obligations.SecondFlashReplacesFirst := by
  intro s k mode1 delay1 mode2 delay2
  obtain ⟨t, ht, hcfg, htrelays⟩ := exec_flashInstr_relays k mode1 delay1 s
  obtain ⟨t', ht', _, ht'relays⟩ := exec_flashInstr_relays k mode2 delay2 t
  obtain ⟨u, hu, _, hurelays⟩ := exec_flashInstr_relays k mode2 delay2 s
  refine ⟨t', u, by rw [execAll_cons_of_next ht, execAll_cons_of_next ht', execAll], hu, ?_⟩
  rw [ht'relays, hurelays, htrelays, hcfg]
  by_cases hk : k.val < s.cfg.nCoils
  · simp only [hk, if_true, flashedBank_flashedBank]
  · simp only [hk, if_false]

/-- Settles O50, argument by argument. -/
theorem resetInstallsStatedValues : Obligations.ResetInstallsStatedValues := by
  intro s a b
  refine ⟨bootAddrValue a, bootBaudValue s.cfg b, exec_reset a b s, ?_, ?_, ?_, ?_, ?_, ?_, ?_, ?_⟩
  · rintro rfl
    rfl
  · rintro v rfl h
    exact bootAddrValue_of_legal ((addrLegal_iff v).mpr h)
  · rintro v rfl h
    exact bootAddrValue_of_not_legal (mt (addrLegal_iff v).mp h)
  · rintro rfl
    rfl
  · rintro rfl
    rfl
  · rintro rfl
    rfl
  · rintro rfl
    rfl
  · rintro r rfl h1 h2 h3
    exact bootBaudValue_of_no_code h1 h2 h3

/-- Settles O51. -/
theorem resetStateIsResetOfAbsentValues : Obligations.ResetStateIsResetOfAbsentValues := by
  intro s hcfg
  refine ⟨_, exec_reset none none s, ?_, rfl, ?_, rfl, hcfg⟩
  · rw [State.resetEvent_relays, hcfg]
    rfl
  · rw [State.resetEvent_baudCode, hcfg]
    rfl

/-- Settles O52. -/
theorem resetStateMeetsInvariant : Obligations.ResetStateMeetsInvariant :=
  ⟨sound_of_relays_off (by decide) rfl rfl, rfl⟩

end Sys2Proof.Machine
end

section
/-! The whole machine: who writes what (R10), the events and the relays (R11, R161), and the invariant that every
step keeps (R14, R18, R19). The requests are taken together through `written` and `emitted`, the events and the
micro-operations one by one. -/

namespace Sys2Proof.Machine

/-! ### Requests, accepted or not -/

/-- A request is served on the state it leaves alone, or on what it writes with what it emits. -/
theorem exec_request_cases {i : Instr} (h : i.isRequest = true) (s : State) :
    (∃ rsp, exec i s = .next (s.served [] rsp)) ∨
    (protocolException s.cfg i = none ∧ ∃ rsp, exec i s = .next ((written i s).served (emitted i s) rsp)) := by
  obtain ⟨function, hfunction⟩ := functionByte_of_isRequest h
  rcases answers_of_functionByte hfunction s with ⟨hnone, hexec⟩ | ⟨code, _, hexec⟩
  · exact .inr ⟨hnone, _, hexec⟩
  · exact .inl ⟨_, hexec⟩

/-! ### The bank after a request -/

theorem modify_eq_mapIdx (l : List Relay) (k : Nat) (f : Relay → Relay) :
    l.modify k f = l.mapIdx fun c r => if k = c then f r else r := by
  apply List.ext_getElem?
  intro c
  rw [List.getElem?_modify, List.getElem?_mapIdx]
  split <;> simp_all

/-- A request gives each relay a new coil at most, or the slot that a flash command says. -/
def RelayUpdate (i : Instr) (r r' : Relay) : Prop :=
  r' = { r with coil := r'.coil } ∨ (i.writesTimers = true ∧ ∃ on delay, r' = flashedRelay on delay)

theorem flashedBank_eq_mapIdx {i : Instr} (hi : i.writesTimers = true) (relays : List Relay) (k : Nat)
    (mode delay : U16) :
    ∃ f, flashedBank relays k mode delay = relays.mapIdx f ∧ ∀ c r, RelayUpdate i r (f c r) := by
  refine ⟨_, modify_eq_mapIdx relays k _, fun c r => ?_⟩
  by_cases hc : k = c
  · exact .inr ⟨hi, flashOn mode, delay, if_pos hc⟩
  · exact .inl (by simp [hc])

theorem written_relays (i : Instr) (s : State) :
    ∃ f, (written i s).relays = s.relays.mapIdx f ∧ ∀ c r, RelayUpdate i r (f c r) := by
  cases i with
  | wrCoil address value =>
    refine ⟨_, modify_eq_mapIdx s.relays _ _, fun c r => .inl ?_⟩
    split <;> rfl
  | wrCoils => exact ⟨_, rfl, fun c r => .inl rfl⟩
  | flash0 mode delay | flash1 mode delay | flash2 mode delay | flash3 mode delay =>
    exact flashedBank_eq_mapIdx rfl s.relays _ mode delay
  | _ => exact ⟨fun _ r => r, List.ext_getElem? fun c => by simp [written], fun c r => .inl rfl⟩

theorem written_length (i : Instr) (s : State) : (written i s).relays.length = s.relays.length := by
  obtain ⟨f, hf, _⟩ := written_relays i s
  rw [hf, List.length_mapIdx]

theorem flashedRelay_inv (on : Bool) (delay : U16) : (flashedRelay on delay).Inv := by
  by_cases h : delay = 0#16
  · rw [flashedRelay, if_pos h]
    exact ⟨fun _ => ⟨rfl, rfl⟩, nofun⟩
  · have hpos : 1 ≤ delay.toNat := Nat.pos_of_ne_zero fun h0 => h (BitVec.eq_of_toNat_eq h0)
    rw [flashedRelay, if_neg h]
    exact ⟨nofun, fun _ => ⟨hpos, Nat.le_refl _⟩⟩

theorem RelayUpdate.inv {i : Instr} {r r' : Relay} (h : RelayUpdate i r r') (hr : r.Inv) : r'.Inv := by
  rcases h with h | ⟨_, on, delay, rfl⟩
  · rw [h]
    exact hr
  · exact flashedRelay_inv on delay

/-- What a request other than a flash command keeps of a relay is all but its coil. -/
theorem RelayUpdate.eq_of_coil_irrelevant {i : Instr} {r r' : Relay} (h : RelayUpdate i r r')
    (hi : i.writesTimers = false) {α : Type} {g : Relay → α} (hg : ∀ (r : Relay) v, g { r with coil := v } = g r) :
    g r' = g r := by
  rcases h with h | ⟨hwrites, _⟩
  · rw [h, hg]
  · rw [hi] at hwrites
    cases hwrites

theorem written_map_eq {i : Instr} (hi : i.writesTimers = false) (s : State) {α : Type} {g : Relay → α}
    (hg : ∀ (r : Relay) v, g { r with coil := v } = g r) :
    (written i s).relays.map g = s.relays.map g := by
  obtain ⟨f, hf, hupdate⟩ := written_relays i s
  rw [hf]
  apply List.ext_getElem?
  intro c
  rw [List.getElem?_map, List.getElem?_map, List.getElem?_mapIdx, Option.map_map]
  exact congrFun (congrArg _ (funext fun r => (hupdate c r).eq_of_coil_irrelevant hi hg)) _

theorem written_relays_of_not_writesCoils {i : Instr} (hi : i.writesCoils = false) (s : State) :
    (written i s).relays = s.relays := by
  cases i with
  | wrCoil | wrCoils | flash0 | flash1 | flash2 | flash3 => cases hi
  | _ => rfl

/-! ### The invariant -/

theorem written_sound (i : Instr) {s : State} (h : s.Sound) : (written i s).Sound := by
  obtain ⟨hcfg, hlen, hinv, haddr⟩ := h
  refine ⟨by rwa [written_cfg], by rw [written_length, written_cfg, hlen], fun r' hr' => ?_, ?_⟩
  · obtain ⟨f, hf, hupdate⟩ := written_relays i s
    rw [hf] at hr'
    obtain ⟨c, hc, rfl⟩ := List.mem_mapIdx.mp hr'
    exact (hupdate c _).inv (hinv _ (List.getElem_mem hc))
  · cases i with
    | setAddr _ d1 =>
      by_cases hlegal : addrLegal d1 = true
      · rwa [written, if_pos hlegal]
      · rwa [written, if_neg hlegal]
    | _ => exact haddr

theorem tickRelays_sound {s : State} (h : s.Sound) : s.tickRelays.Sound := by
  obtain ⟨hcfg, hlen, hinv, haddr⟩ := h
  refine ⟨hcfg, by rw [State.tickRelays_relays, List.length_map]; exact hlen, fun r' hr' => ?_, haddr⟩
  obtain ⟨r, hr, rfl⟩ := List.mem_map.mp hr'
  exact r.tick_inv (hinv r hr)

/-- Every instruction keeps the invariant, and leaves no header unless it is an event that keeps what it found. -/
theorem exec_sound {i : Instr} {s t : State} (hexec : exec i s = .next t) (h : s.Sound)
    (hhdr : i.isRequest = true ∨ s.hdr = []) : t.Inv := by
  by_cases hreq : i.isRequest = true
  · rcases exec_request_cases hreq s with ⟨rsp, e⟩ | ⟨_, rsp, e⟩
    · rw [hexec] at e
      cases e
      exact ⟨h, rfl⟩
    · rw [hexec] at e
      cases e
      exact ⟨written_sound i h, rfl⟩
  · have hempty : s.hdr = [] := hhdr.resolve_left hreq
    cases i with
    | tick => cases hexec; exact ⟨tickRelays_sound h, hempty⟩
    | reset a b => cases hexec; exact ⟨resetEvent_sound h.1 a b, hempty⟩
    | crcInit | crcBit | crcByte => cases hexec; exact ⟨h, hempty⟩
    | _ => exact absurd rfl hreq

/-- A step that goes on takes an event, and may run an instruction on the state that has taken it. -/
theorem step_next_inversion {s t : State} (h : step s = .next t) :
    ∃ pending ties, t = { s with pending := pending, ties := ties } ∨
      ∃ i hdr, (i.isRequest = true ∨ hdr = s.hdr) ∧
        exec i { s with pending := pending, ties := ties, hdr := hdr } = .next t := by
  rcases s.fetch_cases with ⟨hp, _⟩ | ⟨_, _, hf, _⟩ | ⟨_, pending, ties, hf⟩ | ⟨i, hdr, pending, ties, hf, hhdr⟩
  · rw [step_of_nil hp] at h
    cases h
    exact ⟨s.pending, s.ties, .inl rfl⟩
  · rw [step_of_fetch_refuse hf] at h
    cases h
  · rw [step_of_fetch_dropped hf] at h
    cases h
    exact ⟨pending, ties, .inl rfl⟩
  · rw [step_of_fetch_run hf] at h
    exact ⟨pending, ties, .inr ⟨i, hdr, hhdr, h⟩⟩

/-! ### Writers -/

/-- What an instruction may change of the state, by the column "written by" of R10. -/
def RespectsWriters (i : Instr) (s t : State) : Prop :=
  t.cfg = s.cfg ∧ t.pending = s.pending ∧ t.ties = s.ties ∧
  (i.writesCoils = false → t.relays.map Relay.coil = s.relays.map Relay.coil) ∧
  (i.writesTimers = false →
    t.relays.map (fun r => (r.active, r.period)) = s.relays.map fun r => (r.active, r.period)) ∧
  (i.writesCounts = false → t.relays.map Relay.cnt = s.relays.map Relay.cnt) ∧
  (i.writesAddr = false → t.addr = s.addr) ∧
  (i.writesBaud = false → t.baudCode = s.baudCode) ∧
  (i.isRequest = true → t.acc = s.acc ∧ t.started = s.started) ∧
  ((∀ start quantity, i ≠ .rdInputs start quantity) → t.answers = s.answers ∧ t.queries = s.queries)

/-- The outputs and the kept header are no part of R10. -/
theorem RespectsWriters.served {i : Instr} {s t : State} (h : RespectsWriters i s t) (evs : List OutEvent)
    (rsp : List Byte) : RespectsWriters i s (t.served evs rsp) := h

theorem respectsWriters_refl (i : Instr) (s : State) : RespectsWriters i s s :=
  ⟨rfl, rfl, rfl, fun _ => rfl, fun _ => rfl, fun _ => rfl, fun _ => rfl, fun _ => rfl, fun _ => ⟨rfl, rfl⟩,
    fun _ => ⟨rfl, rfl⟩⟩

theorem written_addr {i : Instr} (hi : i.writesAddr = false) (s : State) : (written i s).addr = s.addr := by
  cases i with
  | setAddr => cases hi
  | _ => rfl

theorem written_baudCode {i : Instr} (hi : i.writesBaud = false) (s : State) :
    (written i s).baudCode = s.baudCode := by
  cases i with
  | setBaud => cases hi
  | _ => rfl

theorem written_answers {i : Instr} (hi : ∀ start quantity, i ≠ .rdInputs start quantity) (s : State) :
    (written i s).answers = s.answers ∧ (written i s).queries = s.queries := by
  cases i with
  | rdInputs start quantity => exact absurd rfl (hi start quantity)
  | _ => exact ⟨rfl, rfl⟩

theorem written_respectsWriters (i : Instr) (s : State) : RespectsWriters i s (written i s) := by
  refine ⟨written_cfg i s, written_pending i s, written_ties i s, fun h => ?_, fun h => ?_, fun h => ?_,
    fun h => written_addr h s, fun h => written_baudCode h s, fun _ => ⟨written_acc i s, written_started i s⟩,
    fun h => written_answers h s⟩
  · rw [written_relays_of_not_writesCoils h]
  · exact written_map_eq h s fun _ _ => rfl
  · exact written_map_eq (Bool.or_eq_false_iff.mp h).1 s fun _ _ => rfl

/-- A strobe writes no timer but its count (R10). -/
theorem tick_active_period (r : Relay) : (r.tick.active, r.tick.period) = (r.active, r.period) := by
  rw [tick_eq]
  split
  · split <;> rfl
  · rfl

theorem tickRelays_respectsWriters (s : State) : RespectsWriters .tick s s.tickRelays := by
  refine ⟨rfl, rfl, rfl, nofun, fun _ => ?_, nofun, fun _ => rfl, fun _ => rfl, nofun, fun _ => ⟨rfl, rfl⟩⟩
  rw [State.tickRelays_relays, List.map_map]
  exact List.map_congr_left fun r _ => tick_active_period r

theorem resetEvent_respectsWriters (a : Option Byte) (b : Option U32) (s : State) :
    RespectsWriters (.reset a b) s (s.resetEvent a b) :=
  ⟨rfl, rfl, rfl, nofun, nofun, nofun, nofun, nofun, nofun, fun _ => ⟨rfl, rfl⟩⟩

/-- The accumulator of the CRC sub-block is no register of R10 (R77). -/
theorem acc_respectsWriters {i : Instr} (hi : i.isRequest = false) (s : State) (acc : U16) :
    RespectsWriters i s { s with acc := acc } :=
  ⟨rfl, rfl, rfl, fun _ => rfl, fun _ => rfl, fun _ => rfl, fun _ => rfl, fun _ => rfl,
    fun hreq => (Bool.false_ne_true (hi.symm.trans hreq)).elim, fun _ => ⟨rfl, rfl⟩⟩

/-! ### Events -/

theorem responseEvents_length (s : State) (rsp : List Byte) : (s.responseEvents rsp).length ≤ 1 := by
  by_cases h : s.muted = true
  · simp [State.responseEvents_of_muted h]
  · simp [State.responseEvents_of_not_muted h]

theorem responseEvents_inRange (s : State) (rsp : List Byte) (cfg : Config) :
    ∀ e ∈ s.responseEvents rsp, e.inRange cfg = true := by
  by_cases h : s.muted = true
  · simp [State.responseEvents_of_muted h]
  · simp [State.responseEvents_of_not_muted h, OutEvent.inRange]

theorem foldl_drive_responseEvents (s : State) (rsp : List Byte) (coils : List Bool) :
    (s.responseEvents rsp).foldl OutEvent.drive coils = coils := by
  by_cases h : s.muted = true
  · rw [State.responseEvents_of_muted h]
    rfl
  · rw [State.responseEvents_of_not_muted h]
    rfl

/-- The events of a strobe are those of the relays that toggle. -/
theorem mem_tickEvents {e : OutEvent} {rs : List Relay} (h : e ∈ tickEvents 0 rs) :
    ∃ c v, c < rs.length ∧ e = .setRelay c v := by
  rw [tickEvents_eq_flatMap, List.mem_flatMap] at h
  obtain ⟨c, hc, he⟩ := h
  rw [List.mem_range] at hc
  rw [List.getElem?_eq_getElem hc, Option.map_some, Option.getD_some, tickEvent] at he
  split at he
  · exact ⟨c, _, hc, List.mem_singleton.mp he⟩
  · cases he

/-- A condition of the exception table that must hold for a request to be accepted. -/
theorem of_ite_eq_none {p : Prop} [Decidable p] {code : ExcCode} (h : (if p then none else some code) = none) : p := by
  by_contra hp
  rw [if_neg hp] at h
  cases h

/-- A condition of the exception table that must fail for a request to be accepted. -/
theorem not_of_ite_eq_none {p : Prop} [Decidable p] {code : ExcCode} {more : Option ExcCode}
    (h : (if p then some code else more) = none) : ¬p := by
  intro hp
  rw [if_pos hp] at h
  cases h

/-- What an accepted request emits names relays and inputs that exist. -/
theorem emitted_inRange {i : Instr} {s : State} (h : protocolException s.cfg i = none) :
    ∀ e ∈ emitted i s, e.inRange s.cfg = true := by
  cases i with
  | rdInputs start quantity =>
    have hrange : 1 ≤ quantity.toNat ∧ start.toNat + quantity.toNat ≤ s.cfg.nInputs := of_ite_eq_none h
    intro e he
    obtain ⟨j, hj, rfl⟩ := List.mem_map.mp he
    rw [List.mem_range] at hj
    exact decide_eq_true (by omega)
  | wrCoil =>
    exact List.forall_mem_singleton.mpr (decide_eq_true (Nat.lt_of_not_le (not_of_ite_eq_none h)))
  | wrCoils =>
    intro e he
    obtain ⟨c, hc, rfl⟩ := List.mem_mapIdx.mp he
    rw [dataBits, List.length_map, List.length_range] at hc
    exact decide_eq_true hc
  | setAddr _ d1 => cases hlegal : addrLegal d1 <;> simp [emitted, OutEvent.inRange, hlegal]
  | setBaud _ d1 => cases hcode : baudCodeOfByte d1 <;> simp [emitted, OutEvent.inRange, hcode]
  | flash0 | flash1 | flash2 | flash3 =>
    exact List.forall_mem_singleton.mpr (decide_eq_true (Nat.lt_of_not_le (not_of_ite_eq_none h)))
  | rdCoils | rdHold | wrRegsOther | illegal | tick | reset | crcInit | crcBit | crcByte => exact nofun

/-! ### The relays follow the coils -/

/-- A write to one relay is, on the coils, a write to one coil. -/
theorem map_coil_modify (relays : List Relay) (c : Nat) {f : Relay → Relay} {v : Bool} (hf : ∀ r, (f r).coil = v) :
    (relays.modify c f).map Relay.coil = (relays.map Relay.coil).set c v := by
  apply List.ext_getElem?
  intro j
  rw [List.getElem?_map, List.getElem?_modify, List.getElem?_set]
  by_cases hj : c = j
  · subst hj
    by_cases hlen : c < relays.length
    · simp [hlen, hf]
    · simp [hlen]
  · simp [hj]

theorem flashedRelay_coil (on : Bool) (delay : U16) : (flashedRelay on delay).coil = on := by
  rw [flashedRelay]
  split <;> rfl

theorem map_coil_writeCoils (s : State) (a : Nat) (vs : List Bool) :
    (s.writeCoils a vs).relays.map Relay.coil =
      (vs.mapIdx fun i v => OutEvent.setRelay (a + i) v).foldl OutEvent.drive (s.relays.map Relay.coil) := by
  induction vs generalizing s a with
  | nil => rfl
  | cons v vs ih =>
    have hcoil : (s.writeCoil a v).relays.map Relay.coil = (s.relays.map Relay.coil).set a v :=
      map_coil_modify s.relays a fun _ => rfl
    rw [State.writeCoils, ih, hcoil, List.mapIdx_cons]
    simp only [Nat.add_assoc, Nat.add_comm 1]
    rfl

theorem written_follows_emitted (i : Instr) (s : State) :
    (written i s).relays.map Relay.coil = (emitted i s).foldl OutEvent.drive (s.relays.map Relay.coil) := by
  cases i with
  | wrCoil address value => exact map_coil_modify _ _ fun _ => rfl
  | wrCoils start quantity byteCount d0 =>
    have hwrite := map_coil_writeCoils s 0 (dataBits s.cfg.nCoils (d0.getD 0#8))
    rw [State.writeCoils_zero] at hwrite
    simp only [Nat.zero_add] at hwrite
    exact hwrite
  | flash0 | flash1 | flash2 | flash3 => exact map_coil_modify _ _ fun _ => flashedRelay_coil _ _
  | rdInputs start quantity => simp [written, emitted, List.foldl_map, OutEvent.drive]
  | setAddr _ d1 => cases hlegal : addrLegal d1 <;> simp [written, emitted, OutEvent.drive, hlegal]
  | setBaud _ d1 => cases hcode : baudCodeOfByte d1 <;> simp [written, emitted, OutEvent.drive, hcode]
  | rdCoils | rdHold | wrRegsOther | illegal | tick | reset | crcInit | crcBit | crcByte => rfl

theorem coil_tick_of_not_expires {r : Relay} (h : ¬r.expires = true) : r.tick.coil = r.coil := by
  rw [Relay.tick, if_neg h]
  split <;> rfl

/-- The events of a strobe replayed on a bank whose first relays are done. -/
theorem tick_follows_tickEvents (done : List Bool) (rs : List Relay) :
    done ++ rs.map (fun r => r.tick.coil) =
      (tickEvents done.length rs).foldl OutEvent.drive (done ++ rs.map Relay.coil) := by
  induction rs generalizing done with
  | nil => simp [tickEvents]
  | cons r rs ih =>
    have hih := ih (done ++ [r.tick.coil])
    rw [List.length_append, List.length_singleton, List.append_assoc, List.append_assoc, List.singleton_append,
      List.singleton_append] at hih
    rw [List.map_cons, List.map_cons, hih, tickEvents]
    by_cases hexpires : r.expires = true
    · rw [if_pos hexpires, List.foldl_cons, OutEvent.drive, List.set_append_right _ _ (Nat.le_refl _), Nat.sub_self,
        List.set_cons_zero]
    · rw [if_neg hexpires, coil_tick_of_not_expires hexpires]

/-! ### The obligations -/

/-- Settles O54: taking an event leaves the sound part of the state, and every instruction keeps it. -/
theorem stepKeepsInvariant : Obligations.StepKeepsInvariant := by
  rintro s t ⟨hsound, hhdr⟩ hstep
  obtain ⟨pending, ties, rfl | ⟨i, hdr, hkept, hexec⟩⟩ := step_next_inversion hstep
  · exact ⟨hsound, hhdr⟩
  · exact exec_sound hexec hsound (hkept.imp_right fun h => h.trans hhdr)

/-- Settles O55: a request writes at most what `written` says, and each other instruction is looked at. -/
theorem eachRegisterHasItsWriters : Obligations.EachRegisterHasItsWriters := by
  intro i s
  suffices h : ∃ t, exec i s = .next t ∧ RespectsWriters i s t from h
  by_cases hreq : i.isRequest = true
  · rcases exec_request_cases hreq s with ⟨rsp, e⟩ | ⟨_, rsp, e⟩
    · exact ⟨_, e, (respectsWriters_refl i s).served [] rsp⟩
    · exact ⟨_, e, (written_respectsWriters i s).served (emitted i s) rsp⟩
  · cases i with
    | tick => exact ⟨_, exec_tick s, tickRelays_respectsWriters s⟩
    | reset a b => exact ⟨_, exec_reset a b s, resetEvent_respectsWriters a b s⟩
    | crcInit => exact ⟨_, exec_crcInit s, acc_respectsWriters rfl s _⟩
    | crcBit => exact ⟨_, exec_crcBit s, acc_respectsWriters rfl s _⟩
    | crcByte b => exact ⟨_, exec_crcByte b s, acc_respectsWriters rfl s _⟩
    | _ => exact absurd rfl hreq

/-- Settles O56: an accepted request has had its operands checked, and a strobe serves the relays there are. -/
theorem eventsNameExistingRelaysAndInputs : Obligations.EventsNameExistingRelaysAndInputs := by
  intro i s hlen
  by_cases hreq : i.isRequest = true
  · rcases exec_request_cases hreq s with ⟨rsp, e⟩ | ⟨hnone, rsp, e⟩
    · refine ⟨_, s.responseEvents rsp, e, ?_, responseEvents_inRange s rsp s.cfg⟩
      rw [State.served_out, List.append_nil]
    · refine ⟨_, emitted i s ++ s.responseEvents rsp, e, ?_, List.forall_mem_append.mpr
        ⟨emitted_inRange hnone, responseEvents_inRange s rsp s.cfg⟩⟩
      rw [State.served_out, written_out, written_responseEvents, List.append_assoc]
  · cases i with
    | tick =>
      refine ⟨_, tickEvents 0 s.relays, exec_tick s, rfl, fun e he => ?_⟩
      obtain ⟨c, v, hc, rfl⟩ := mem_tickEvents he
      exact decide_eq_true (hlen ▸ hc)
    | reset | crcInit | crcBit | crcByte => exact ⟨_, [], rfl, (List.append_nil _).symm, nofun⟩
    | _ => exact absurd rfl hreq

/-- Settles O57: a request sends its response last, and no other instruction sends a frame. -/
theorem stepSendsAtMostOneFrameLast : Obligations.StepSendsAtMostOneFrameLast := by
  intro s t hstep
  obtain ⟨pending, ties, rfl | ⟨i, hdr, _, hexec⟩⟩ := step_next_inversion hstep
  · exact ⟨[], [], by simp, nofun, by simp⟩
  · by_cases hreq : i.isRequest = true
    · obtain ⟨u, evs, rsp, hu, hout, hevs, _⟩ := everyRequestAnsweredOnceAndLast i _ hreq
      rw [hexec] at hu
      cases hu
      exact ⟨evs, _, hout, hevs, responseEvents_length _ rsp⟩
    · cases i with
      | tick =>
        cases hexec
        refine ⟨tickEvents 0 s.relays, [], by simp, fun e he => ?_, by simp⟩
        obtain ⟨c, v, _, rfl⟩ := mem_tickEvents he
        rfl
      | reset | crcInit | crcBit | crcByte =>
        cases hexec
        exact ⟨[], [], by simp, nofun, by simp⟩
      | _ => exact absurd rfl hreq

/-- Settles O58: what a request emits brings the relays to what it writes, and a strobe is replayed relay by relay. -/
theorem relaysFollowCoils : Obligations.RelaysFollowCoils := by
  intro i s hreset
  by_cases hreq : i.isRequest = true
  · rcases exec_request_cases hreq s with ⟨rsp, e⟩ | ⟨hnone, rsp, e⟩
    · refine ⟨_, s.responseEvents rsp, e, ?_, (foldl_drive_responseEvents s rsp _).symm⟩
      rw [State.served_out, List.append_nil]
    · refine ⟨_, emitted i s ++ s.responseEvents rsp, e, ?_, ?_⟩
      · rw [State.served_out, written_out, written_responseEvents, List.append_assoc]
      · rw [List.foldl_append, foldl_drive_responseEvents, State.served_relays, written_follows_emitted]
  · cases i with
    | tick =>
      refine ⟨_, tickEvents 0 s.relays, exec_tick s, rfl, ?_⟩
      rw [State.tickRelays_relays, List.map_map]
      exact tick_follows_tickEvents [] s.relays
    | reset a b => exact absurd rfl (hreset a b)
    | crcInit | crcBit | crcByte => exact ⟨_, [], rfl, (List.append_nil _).symm, rfl⟩
    | _ => exact absurd rfl hreq

end Sys2Proof.Machine
end
